-- ==== Sys2Proof/Word.lean ====
section
/-! DEFINITION. The widths the spec gives its values (00_scope.md R6, R10; 30_encoding.md R93).
Every value is unsigned (R11); arithmetic on an N-bit location is modulo 2^N, which is `BitVec`'s. -/

namespace Sys2Proof

/-- A byte of memory, a general register, a timer, a key entry: 8 bits. -/
abbrev Byte := BitVec 8

/-- I, pc, OP, a stack entry, an instruction word: 16 bits. -/
abbrev Word := BitVec 16

/-- A register index (the fields X and Y), or the 4-bit count N. -/
abbrev Nibble := BitVec 4

/-- The 12-bit address field NNN. -/
abbrev Addr := BitVec 12

end Sys2Proof
end

