-- ==== Sys2Proof/Syntax.lean ====
section
/-! DEFINITION. The 35 instructions of spec/opcode_table.json, one constructor for each row, in the
table's order (30_encoding.md R99, R100, R109). Bits that R103 says are ignored are no operand. -/

namespace Sys2Proof

/-- An instruction. `x` and `y` are register indexes, `nn` a byte, `nnn` a 12-bit address, `n` a count. -/
inductive Instr where
  /-- 00E0 CLS (R230). -/
  | cls
  /-- 00EE RET (R131). -/
  | ret
  /-- 0NNN SYS NNN (R130); its low byte is neither 0xE0 nor 0xEE (see `Instr.wf`). -/
  | sys (nnn : Addr)
  /-- 1NNN JP NNN (R132). -/
  | jp (nnn : Addr)
  /-- 2NNN CALL NNN (R133). -/
  | call (nnn : Addr)
  /-- 3XNN SE Vx, NN (R135). -/
  | seImm (x : Nibble) (nn : Byte)
  /-- 4XNN SNE Vx, NN (R136). -/
  | sneImm (x : Nibble) (nn : Byte)
  /-- 5XY0 SE Vx, Vy (R137). -/
  | seReg (x y : Nibble)
  /-- 6XNN LD Vx, NN (R161). -/
  | ldImm (x : Nibble) (nn : Byte)
  /-- 7XNN ADD Vx, NN (R162). -/
  | addImm (x : Nibble) (nn : Byte)
  /-- 8XY0 LD Vx, Vy (R163). -/
  | ldReg (x y : Nibble)
  /-- 8XY1 OR Vx, Vy, EXT_STD (R164). -/
  | orReg (x y : Nibble)
  /-- 8XY2 AND Vx, Vy (R165). -/
  | andReg (x y : Nibble)
  /-- 8XY3 XOR Vx, Vy, EXT_STD (R166). -/
  | xorReg (x y : Nibble)
  /-- 8XY4 ADD Vx, Vy (R167). -/
  | addReg (x y : Nibble)
  /-- 8XY5 SUB Vx, Vy (R168). -/
  | subReg (x y : Nibble)
  /-- 8XY6 SHR Vx, EXT_STD (R169). -/
  | shr (x : Nibble)
  /-- 8XY7 SUBN Vx, Vy, EXT_STD (R170). -/
  | subnReg (x y : Nibble)
  /-- 8XYE SHL Vx, EXT_STD (R171). -/
  | shl (x : Nibble)
  /-- 9XY0 SNE Vx, Vy (R138). -/
  | sneReg (x y : Nibble)
  /-- ANNN LD I, NNN (R200). -/
  | ldI (nnn : Addr)
  /-- BNNN JP V0, NNN, EXT_STD (R134). -/
  | jpV0 (nnn : Addr)
  /-- CXNN RND Vx, NN (R172). -/
  | rnd (x : Nibble) (nn : Byte)
  /-- DXYN DRW Vx, Vy, N (R233). -/
  | drw (x y n : Nibble)
  /-- EX9E SKP Vx, EXT_STD (R250). -/
  | skp (x : Nibble)
  /-- EXA1 SKNP Vx (R251). -/
  | sknp (x : Nibble)
  /-- FX07 LD Vx, DT (R252). -/
  | ldVxDt (x : Nibble)
  /-- FX0A LD Vx, K, EXT_STD (R253). -/
  | ldVxK (x : Nibble)
  /-- FX15 LD DT, Vx (R254). -/
  | ldDtVx (x : Nibble)
  /-- FX18 LD ST, Vx (R255). -/
  | ldStVx (x : Nibble)
  /-- FX1E ADD I, Vx, EXT_STD (R201). -/
  | addI (x : Nibble)
  /-- FX29 LD F, Vx (R202). -/
  | ldF (x : Nibble)
  /-- FX33 LD B, Vx (R203). -/
  | ldB (x : Nibble)
  /-- FX55 LD [I], Vx, EXT_STD (R204). -/
  | ldMemVx (x : Nibble)
  /-- FX65 LD Vx, [I] (R205). -/
  | ldVxMem (x : Nibble)
  deriving DecidableEq, Repr

end Sys2Proof
end

