-- ==== Sys2Proof/WellFormed.lean ====
section
/-! DEFINITION. Which terms of `Instr` are instructions of the core, and of which core. The operand
types already hold every field to its width (30_encoding.md R93, R94: every value of X and Y is legal). -/

namespace Sys2Proof

/-- SYS is every 0NNN word whose low byte is neither 0xE0 nor 0xEE (R102, R130): those are CLS and RET. -/
def Instr.wf : Instr → Bool
  | .sys nnn => nnn.extractLsb' 0 8 != 0xE0#8 && nnn.extractLsb' 0 8 != 0xEE#8
  | _ => true

/-- The ten rows of 30_encoding.md R100, which exist only when EXT_STD is true. -/
def Instr.isExt : Instr → Bool
  | .orReg .. | .xorReg .. | .shr .. | .subnReg .. | .shl .. => true
  | .jpV0 .. | .skp .. | .ldVxK .. | .addI .. | .ldMemVx .. => true
  | _ => false

/-- An instruction that a core with this EXT_STD has (00_scope.md R9). -/
def Instr.wfIn (ext : Bool) (i : Instr) : Bool :=
  i.wf && (ext || !i.isExt)

end Sys2Proof
end

