-- ==== Sys2Proof/Decode.lean ====
section
/-! DEFINITION. Decode (30_encoding.md R91 to R105), total on every word and every list of bytes, and
the encoder written from the same tables. -/

namespace Sys2Proof

/-- Nibble 1, the family: `ins[15:12]` (R92). -/
def fieldF (ins : Word) : Nibble := ins.extractLsb' 12 4

/-- Nibble 2, a register index: `ins[11:8]` (R92). -/
def fieldX (ins : Word) : Nibble := ins.extractLsb' 8 4

/-- Nibble 3, a register index: `ins[7:4]` (R92). -/
def fieldY (ins : Word) : Nibble := ins.extractLsb' 4 4

/-- Nibble 4, a count or sub-opcode: `ins[3:0]` (R92). -/
def fieldN (ins : Word) : Nibble := ins.extractLsb' 0 4

/-- The low byte: `ins[7:0]` (R92). -/
def fieldNN (ins : Word) : Byte := ins.extractLsb' 0 8

/-- The low 12 bits: `ins[11:0]` (R92). -/
def fieldNNN (ins : Word) : Addr := ins.extractLsb' 0 12

/-- Why a decoder gives no instruction. -/
inductive DecodeError where
  /-- No handler for the primary key or no secondary match (R101): UNSUPPORTED_OPCODE with the word. -/
  | unsupported (ins : Word)
  /-- Fewer than two bytes were given (R90: an instruction is exactly two bytes). -/
  | truncated
  deriving DecidableEq, Repr

/-- The secondary dispatch of the 0x0 family on the low byte (R98, R102). -/
def decodeSys (ins : Word) : Instr :=
  match (fieldNN ins).toNat with
  | 0xE0 => .cls
  | 0xEE => .ret
  | _ => .sys (fieldNNN ins)

/-- The secondary dispatch of the 0x8 family on the low nibble (R98, R101). -/
def decodeAlu (ext : Bool) (ins : Word) : Except DecodeError Instr :=
  match (fieldN ins).toNat, ext with
  | 0x0, _ => .ok (.ldReg (fieldX ins) (fieldY ins))
  | 0x1, true => .ok (.orReg (fieldX ins) (fieldY ins))
  | 0x2, _ => .ok (.andReg (fieldX ins) (fieldY ins))
  | 0x3, true => .ok (.xorReg (fieldX ins) (fieldY ins))
  | 0x4, _ => .ok (.addReg (fieldX ins) (fieldY ins))
  | 0x5, _ => .ok (.subReg (fieldX ins) (fieldY ins))
  | 0x6, true => .ok (.shr (fieldX ins))
  | 0x7, true => .ok (.subnReg (fieldX ins) (fieldY ins))
  | 0xE, true => .ok (.shl (fieldX ins))
  | _, _ => .error (.unsupported ins)

/-- The secondary dispatch of the 0xE family on the low byte (R98, R101). -/
def decodeKey (ext : Bool) (ins : Word) : Except DecodeError Instr :=
  match (fieldNN ins).toNat, ext with
  | 0x9E, true => .ok (.skp (fieldX ins))
  | 0xA1, _ => .ok (.sknp (fieldX ins))
  | _, _ => .error (.unsupported ins)

/-- The secondary dispatch of the 0xF family on the low byte (R98, R101). -/
def decodeMisc (ext : Bool) (ins : Word) : Except DecodeError Instr :=
  match (fieldNN ins).toNat, ext with
  | 0x07, _ => .ok (.ldVxDt (fieldX ins))
  | 0x0A, true => .ok (.ldVxK (fieldX ins))
  | 0x15, _ => .ok (.ldDtVx (fieldX ins))
  | 0x18, _ => .ok (.ldStVx (fieldX ins))
  | 0x1E, true => .ok (.addI (fieldX ins))
  | 0x29, _ => .ok (.ldF (fieldX ins))
  | 0x33, _ => .ok (.ldB (fieldX ins))
  | 0x55, true => .ok (.ldMemVx (fieldX ins))
  | 0x65, _ => .ok (.ldVxMem (fieldX ins))
  | _, _ => .error (.unsupported ins)

/-- Decode (R105): the primary dispatch on the family nibble (R97), for a core whose EXT_STD is `ext`.
A SYS word decodes to `.sys`, whose meaning raises UNIMPLEMENTED_OPCODE (R130). -/
def decode (ext : Bool) (ins : Word) : Except DecodeError Instr :=
  match (fieldF ins).toNat, ext with
  | 0x0, _ => .ok (decodeSys ins)
  | 0x1, _ => .ok (.jp (fieldNNN ins))
  | 0x2, _ => .ok (.call (fieldNNN ins))
  | 0x3, _ => .ok (.seImm (fieldX ins) (fieldNN ins))
  | 0x4, _ => .ok (.sneImm (fieldX ins) (fieldNN ins))
  | 0x5, _ => .ok (.seReg (fieldX ins) (fieldY ins))
  | 0x6, _ => .ok (.ldImm (fieldX ins) (fieldNN ins))
  | 0x7, _ => .ok (.addImm (fieldX ins) (fieldNN ins))
  | 0x8, _ => decodeAlu ext ins
  | 0x9, _ => .ok (.sneReg (fieldX ins) (fieldY ins))
  | 0xA, _ => .ok (.ldI (fieldNNN ins))
  | 0xB, true => .ok (.jpV0 (fieldNNN ins))
  | 0xC, _ => .ok (.rnd (fieldX ins) (fieldNN ins))
  | 0xD, _ => .ok (.drw (fieldX ins) (fieldY ins) (fieldN ins))
  | 0xE, _ => decodeKey ext ins
  | 0xF, _ => decodeMisc ext ins
  | _, _ => .error (.unsupported ins)

/-- A row of spec/opcode_table.json (R109): a word selects it when `ins & mask = pat`. -/
structure OpcodeRow where
  mask : Word
  pat : Word
  /-- One of the ten rows of R100. -/
  ext : Bool
  /-- The instruction, its operands taken from their fields. -/
  build : Word → Instr

/-- The rows of the families 0x0 to 0x7, in decode order. -/
def opcodeRowsLow : List OpcodeRow := [
  ⟨0xF0FF#16, 0x00E0#16, false, fun _ => .cls⟩,
  ⟨0xF0FF#16, 0x00EE#16, false, fun _ => .ret⟩,
  ⟨0xF000#16, 0x0000#16, false, fun w => .sys (fieldNNN w)⟩,
  ⟨0xF000#16, 0x1000#16, false, fun w => .jp (fieldNNN w)⟩,
  ⟨0xF000#16, 0x2000#16, false, fun w => .call (fieldNNN w)⟩,
  ⟨0xF000#16, 0x3000#16, false, fun w => .seImm (fieldX w) (fieldNN w)⟩,
  ⟨0xF000#16, 0x4000#16, false, fun w => .sneImm (fieldX w) (fieldNN w)⟩,
  ⟨0xF000#16, 0x5000#16, false, fun w => .seReg (fieldX w) (fieldY w)⟩,
  ⟨0xF000#16, 0x6000#16, false, fun w => .ldImm (fieldX w) (fieldNN w)⟩,
  ⟨0xF000#16, 0x7000#16, false, fun w => .addImm (fieldX w) (fieldNN w)⟩]

/-- The rows of the families 0x8 to 0xD, in decode order. -/
def opcodeRowsMid : List OpcodeRow := [
  ⟨0xF00F#16, 0x8000#16, false, fun w => .ldReg (fieldX w) (fieldY w)⟩,
  ⟨0xF00F#16, 0x8001#16, true, fun w => .orReg (fieldX w) (fieldY w)⟩,
  ⟨0xF00F#16, 0x8002#16, false, fun w => .andReg (fieldX w) (fieldY w)⟩,
  ⟨0xF00F#16, 0x8003#16, true, fun w => .xorReg (fieldX w) (fieldY w)⟩,
  ⟨0xF00F#16, 0x8004#16, false, fun w => .addReg (fieldX w) (fieldY w)⟩,
  ⟨0xF00F#16, 0x8005#16, false, fun w => .subReg (fieldX w) (fieldY w)⟩,
  ⟨0xF00F#16, 0x8006#16, true, fun w => .shr (fieldX w)⟩,
  ⟨0xF00F#16, 0x8007#16, true, fun w => .subnReg (fieldX w) (fieldY w)⟩,
  ⟨0xF00F#16, 0x800E#16, true, fun w => .shl (fieldX w)⟩,
  ⟨0xF000#16, 0x9000#16, false, fun w => .sneReg (fieldX w) (fieldY w)⟩,
  ⟨0xF000#16, 0xA000#16, false, fun w => .ldI (fieldNNN w)⟩,
  ⟨0xF000#16, 0xB000#16, true, fun w => .jpV0 (fieldNNN w)⟩,
  ⟨0xF000#16, 0xC000#16, false, fun w => .rnd (fieldX w) (fieldNN w)⟩,
  ⟨0xF000#16, 0xD000#16, false, fun w => .drw (fieldX w) (fieldY w) (fieldN w)⟩]

/-- The rows of the families 0xE and 0xF, in decode order. -/
def opcodeRowsHigh : List OpcodeRow := [
  ⟨0xF0FF#16, 0xE09E#16, true, fun w => .skp (fieldX w)⟩,
  ⟨0xF0FF#16, 0xE0A1#16, false, fun w => .sknp (fieldX w)⟩,
  ⟨0xF0FF#16, 0xF007#16, false, fun w => .ldVxDt (fieldX w)⟩,
  ⟨0xF0FF#16, 0xF00A#16, true, fun w => .ldVxK (fieldX w)⟩,
  ⟨0xF0FF#16, 0xF015#16, false, fun w => .ldDtVx (fieldX w)⟩,
  ⟨0xF0FF#16, 0xF018#16, false, fun w => .ldStVx (fieldX w)⟩,
  ⟨0xF0FF#16, 0xF01E#16, true, fun w => .addI (fieldX w)⟩,
  ⟨0xF0FF#16, 0xF029#16, false, fun w => .ldF (fieldX w)⟩,
  ⟨0xF0FF#16, 0xF033#16, false, fun w => .ldB (fieldX w)⟩,
  ⟨0xF0FF#16, 0xF055#16, true, fun w => .ldMemVx (fieldX w)⟩,
  ⟨0xF0FF#16, 0xF065#16, false, fun w => .ldVxMem (fieldX w)⟩]

/-- The 35 rows of spec/opcode_table.json, in decode order (R109). -/
def opcodeTable : List OpcodeRow := opcodeRowsLow ++ opcodeRowsMid ++ opcodeRowsHigh

/-- The first-match reading of the table (R109), the table's own account of decoding: the first row that
the word selects, `ext` rows skipped when EXT_STD is false; a word that selects none is unsupported. -/
def tableDecode (ext : Bool) (ins : Word) : Except DecodeError Instr :=
  match opcodeTable.find? (fun r => (ext || !r.ext) && (ins &&& r.mask == r.pat)) with
  | some r => .ok (r.build ins)
  | none => .error (.unsupported ins)

/-- An instruction word from its two bytes, the first in the high half (20_memory.md R65). -/
def wordOfBytes (hi lo : Byte) : Word := hi ++ lo

/-- The byte of a word at the lower address (R65). -/
def hiByte (w : Word) : Byte := w.extractLsb' 8 8

/-- The byte of a word at the higher address (R65). -/
def loByte (w : Word) : Byte := w.extractLsb' 0 8

/-- Decode from bytes as memory holds them: the instruction and the bytes after it (R90). -/
def decodeBytes (ext : Bool) : List Byte → Except DecodeError (Instr × List Byte)
  | hi :: lo :: rest =>
    match decode ext (wordOfBytes hi lo) with
    | .ok i => .ok (i, rest)
    | .error e => .error e
  | _ => .error .truncated

/-- A word from its four nibbles (R91). -/
def word4 (f x y n : Nibble) : Word := f ++ x ++ y ++ n

/-- A word from its family, X and NN (R91). -/
def wordXNN (f x : Nibble) (nn : Byte) : Word := f ++ x ++ nn

/-- A word from its family and NNN (R91). -/
def wordNNN (f : Nibble) (nnn : Addr) : Word := f ++ nnn

/-- The word of an instruction (R99, R100), with 0 in every ignored bit, as R107 assembles it. -/
def encode : Instr → Word
  | .cls => 0x00E0#16
  | .ret => 0x00EE#16
  | .sys nnn => wordNNN 0x0#4 nnn
  | .jp nnn => wordNNN 0x1#4 nnn
  | .call nnn => wordNNN 0x2#4 nnn
  | .seImm x nn => wordXNN 0x3#4 x nn
  | .sneImm x nn => wordXNN 0x4#4 x nn
  | .seReg x y => word4 0x5#4 x y 0x0#4
  | .ldImm x nn => wordXNN 0x6#4 x nn
  | .addImm x nn => wordXNN 0x7#4 x nn
  | .ldReg x y => word4 0x8#4 x y 0x0#4
  | .orReg x y => word4 0x8#4 x y 0x1#4
  | .andReg x y => word4 0x8#4 x y 0x2#4
  | .xorReg x y => word4 0x8#4 x y 0x3#4
  | .addReg x y => word4 0x8#4 x y 0x4#4
  | .subReg x y => word4 0x8#4 x y 0x5#4
  | .shr x => word4 0x8#4 x 0x0#4 0x6#4
  | .subnReg x y => word4 0x8#4 x y 0x7#4
  | .shl x => word4 0x8#4 x 0x0#4 0xE#4
  | .sneReg x y => word4 0x9#4 x y 0x0#4
  | .ldI nnn => wordNNN 0xA#4 nnn
  | .jpV0 nnn => wordNNN 0xB#4 nnn
  | .rnd x nn => wordXNN 0xC#4 x nn
  | .drw x y n => word4 0xD#4 x y n
  | .skp x => wordXNN 0xE#4 x 0x9E#8
  | .sknp x => wordXNN 0xE#4 x 0xA1#8
  | .ldVxDt x => wordXNN 0xF#4 x 0x07#8
  | .ldVxK x => wordXNN 0xF#4 x 0x0A#8
  | .ldDtVx x => wordXNN 0xF#4 x 0x15#8
  | .ldStVx x => wordXNN 0xF#4 x 0x18#8
  | .addI x => wordXNN 0xF#4 x 0x1E#8
  | .ldF x => wordXNN 0xF#4 x 0x29#8
  | .ldB x => wordXNN 0xF#4 x 0x33#8
  | .ldMemVx x => wordXNN 0xF#4 x 0x55#8
  | .ldVxMem x => wordXNN 0xF#4 x 0x65#8

/-- The two bytes of an instruction as memory holds them (R65). -/
def encodeBytes (i : Instr) : List Byte := [hiByte (encode i), loByte (encode i)]

/-- The instruction word whose bits, numbered as spec/opcode_table.json numbers them, are `w`; the bits
above `nbits` are 0. -/
def tableWord (nbits w : Nat) : Word := BitVec.ofNat 16 (w % 2 ^ min nbits 16)

/-- What the decoder of a core with the whole table (EXT_STD true) reads from the instruction whose bits
are `w` (log entry 12). -/
def decodeTableWord (nbits w : Nat) : Option Instr :=
  match decodeBytes true [hiByte (tableWord nbits w), loByte (tableWord nbits w)] with
  | .ok (i, _) => some i
  | .error _ => none

end Sys2Proof
end

