-- ==== Sys2Proof/Config.lean ====
section
/-! DEFINITION. What is fixed for one core instance (00_scope.md R7, 10_state.md R39), and the two free
inputs of a step (42_alu.md R173, 60_exceptions.md R280). -/

namespace Sys2Proof

/-- DRAW_POLICY (44_display.md R231): how a pixel coordinate becomes a framebuffer index. -/
inductive DrawPolicy where
  /-- Coordinates are taken modulo 64 and modulo 32. -/
  | wrap
  /-- The index is `x + 64 * y`; an index of 2048 or more is out of range (R232). -/
  | linear
  deriving DecidableEq, Repr

/-- The parameters of R7 that a rule depends on. CYCLE_RATE is not among them (R335). -/
structure Config where
  /-- EXT_STD: whether the ten instructions of 30_encoding.md R100 exist. -/
  extStd : Bool
  /-- DRAW_POLICY. -/
  drawPolicy : DrawPolicy
  /-- FONT: the 80 bytes that reset puts at 0x000 to 0x04F (10_state.md R37). -/
  font : Vector Byte 80
  deriving DecidableEq, Repr

/-- FREE VALUE: the random byte of the Cycle numbered by the argument (R173: every value is possible,
no law on the sequence). Log entry 4. -/
opaque Config.freeRnd : Nat → Byte

/-- FREE VALUE: whether the Ticker fires in its turn numbered by the argument (R280: its step is enabled
at every point between Cycles). Log entry 5. -/
opaque Config.freeTick : Nat → Bool

end Sys2Proof
end

