-- ==== Sys2Proof/Machine/Params.lean ====
section
/-! DEFINITION. The values this hardware takes for the parameters of 00_scope.md R7, and what memory holds
where nothing was written (10_state.md R36, R41). -/

namespace Sys2Proof.Machine

/-- EXT_STD, default false (R7, R9). -/
def defaultExtStd : Bool := false

/-- DRAW_POLICY, default WRAP (R7, R231). -/
def defaultDrawPolicy : DrawPolicy := .wrap

/-- The bytes of the glyphs 0 to 7 in the table of R37. -/
def glyphsLow : List Byte :=
  [0xF0, 0x90, 0x90, 0x90, 0xF0] ++ [0x20, 0x60, 0x20, 0x20, 0x70] ++
  [0xF0, 0x10, 0xF0, 0x80, 0xF0] ++ [0xF0, 0x10, 0xF0, 0x10, 0xF0] ++
  [0x90, 0x90, 0xF0, 0x10, 0x10] ++ [0xF0, 0x80, 0xF0, 0x10, 0xF0] ++
  [0xF0, 0x80, 0xF0, 0x90, 0xF0] ++ [0xF0, 0x10, 0x20, 0x40, 0x40]

/-- The bytes of the glyphs 8 to F in the table of R37. -/
def glyphsHigh : List Byte :=
  [0xF0, 0x90, 0xF0, 0x90, 0xF0] ++ [0xF0, 0x90, 0xF0, 0x10, 0xF0] ++
  [0xF0, 0x90, 0xF0, 0x90, 0x90] ++ [0xE0, 0x90, 0xE0, 0x90, 0xE0] ++
  [0xF0, 0x80, 0x80, 0x80, 0xF0] ++ [0xE0, 0x90, 0x90, 0x90, 0xE0] ++
  [0xF0, 0x80, 0xF0, 0x80, 0xF0] ++ [0xF0, 0x80, 0xF0, 0x80, 0x80]

/-- The default FONT (R37). PRESUMED: the spec supplies these bytes from general knowledge (log entry 3). -/
def standardFont : Vector Byte 80 := ⟨(glyphsLow ++ glyphsHigh).toArray, by decide⟩

/-- The configuration of this hardware (R7). -/
def defaultConfig : Config :=
  { extStd := defaultExtStd, drawPolicy := defaultDrawPolicy, font := standardFont }

/-- What an address that memory does not list reads as: its contents after reset, FONT at 0x000 to
0x04F and 0x00 everywhere else (R36, R41). -/
def resetByte (c : Config) (a : Nat) : Byte :=
  if h : a < 80 then c.font[a] else 0x00#8

end Sys2Proof.Machine
end

