-- ==== Sys2Proof/Machine/State.lean ====
section
/-! DEFINITION. The machine's state (10_state.md R20), its faults (60_exceptions.md R271) and its reset
values (10_state.md R41). -/

namespace Sys2Proof.Machine

/-- The 4096 bytes of RAM (R36), as the bytes that differ from the reset contents: strictly rising
addresses, no entry equal to what an unlisted address reads as (`Memory.wf`). -/
abbrev Memory := List Host.Cell

/-- The framebuffer (R32, R60): 32 rows of 64 one-bit cells. Cell `i` is bit `i % 64` of row `i / 64`.
DESIGN CHOICE (log entry 10): a cell can hold only 0 or 1. -/
abbrev Frame := Vector (BitVec 64) 32

/-- An event of a Cycle (60_exceptions.md R290). -/
inductive Event where
  /-- Emitted by a DXYN that completes (44_display.md R234). -/
  | draw
  /-- Emitted by the service point that takes ST from 1 to 0 (R283). -/
  | beep
  deriving DecidableEq, Repr

/-- The core's state (R20), its configuration (R39) and three fields of the model's own. -/
structure State where
  /-- V0 to VF (R21); VF is `v[15]` (R22). -/
  v : Vector Byte 16
  /-- The index register I (R23). -/
  i : Word
  /-- The program counter (R24). -/
  pc : Word
  /-- The return-address file (R27). -/
  stack : Vector Word 16
  /-- The stack pointer, 0 to 15 (R28). -/
  sp : Fin 16
  /-- The delay timer DT (R30). -/
  dt : Byte
  /-- The sound timer ST (R31). -/
  st : Byte
  /-- RAM (R36). -/
  mem : Memory
  /-- The framebuffer (R32). -/
  gfx : Frame
  /-- The key state, one byte a key, pressed when non-zero (R33). -/
  key : Vector Byte 16
  /-- OP, the current opcode (R35). -/
  op : Word
  /-- TP, the tick latch (R34). -/
  tp : Bool
  /-- LOADED, the load flag (R38). -/
  loaded : Bool
  /-- The parameters of this core instance (R7, R39): nothing writes them. -/
  cfg : Config
  /-- OWN: the events of the last Cycle, in order, as that Cycle returns them (R290). Log entry 7. -/
  events : List Event
  /-- OWN: counts Cycles; it numbers the free values of `Config`. Log entry 6. -/
  slot : Nat
  /-- OWN: the Ticker's turns already settled, for the steps to come, oldest first; beyond them its turn
  is free. Log entry 5. -/
  ticks : List Bool
  deriving DecidableEq, Repr

/-- A fault record of R271. A fault ends the Cycle and is returned to its caller; no state written by the
faulting instruction is kept (R270). All are the spec's own faults, and safe: a run stops where the spec
says that every later Cycle without a Reset faults again (R287, R336). -/
inductive Fault where
  /-- Code 1: decode found no handler (R101). Raised by `cycle` from `decode`, and by the meaning of an
  EXT_STD instruction on a core without EXT_STD (R100). Safe. -/
  | unsupportedOpcode (ins : Word)
  /-- Code 2: SYS (R130). Raised by `execSys`. Safe. -/
  | unimplementedOpcode (ins : Word)
  /-- Code 3: CALL with SP = 15 (R274). Raised by `execCall`. Safe. -/
  | stackOverflow (ins pc : Word)
  /-- Code 4: RET with SP = 0 (R275). Raised by `execRet`. Safe. -/
  | stackUnderflow (ins pc : Word)
  /-- Code 5: a fetch with pc ≥ 0xFFF (R273). Raised by `fetch`. Safe. -/
  | fetchRange (pc : Word)
  /-- Code 6: a byte range through I reaches 0x1000 (R276); `addr` is the range's first address at or
  above 0x1000. Raised by `withRange`, for DXYN, FX33, FX55 and FX65. Safe. -/
  | memRange (ins : Word) (addr : Nat)
  /-- Code 7: a key index V[X] > 0xF (R277). Raised by `withKey`, for EX9E and EXA1. Safe. -/
  | keyRange (ins : Word) (k : Byte)
  /-- Code 8: under LINEAR, a set sprite bit's index ≥ 2048 (R278). Raised by `execDrw`. Safe. -/
  | drawRange (ins : Word) (index : Nat)
  deriving DecidableEq, Repr

/-- Why the model gives an instruction no meaning. No arm of `exec` uses it: every instruction of the
table has its meaning. -/
inductive Refusal where
  /-- Raised by an arm of `exec` whose instruction has no meaning yet (none has). Safe. -/
  | notModelled (mnemonic : String)
  deriving DecidableEq, Repr

/-- What a meaning or a step answers. -/
abbrev Result := Host.Outcome State Fault Refusal

/-- The reset state of a core instance with configuration `c` (R41, R320). -/
def State.resetWith (c : Config) : State where
  v := Vector.replicate 16 0x00#8
  i := 0x0000#16
  pc := 0x200#16
  stack := Vector.replicate 16 0x0000#16
  sp := 0
  dt := 0x00#8
  st := 0x00#8
  mem := []
  gfx := Vector.replicate 32 0#64
  key := Vector.replicate 16 0x00#8
  op := 0x0000#16
  tp := false
  loaded := false
  cfg := c
  events := []
  slot := 0
  ticks := []

/-- The machine right after reset (R41), with the parameters of this hardware (R7). -/
def State.reset : State := State.resetWith defaultConfig

end Sys2Proof.Machine
end

