-- ==== Sys2Proof/Machine/Ops.lean ====
section
/-! DEFINITION. The named operations over memory, registers, framebuffer, keys, timers and events; the
fault record and the raising of a fault (00_scope.md R12). -/

namespace Sys2Proof.Machine

/-! ### Memory (20_memory.md R60 to R63) -/

/-- The byte at `a`, where `d` gives what an unlisted address reads as. -/
def Memory.read (d : Nat → Byte) : Memory → Nat → Byte
  | [], a => d a
  | (k, b) :: m, a => if k = a then b else Memory.read d m a

/-- List `b` at `a`, keeping the addresses rising. -/
def Memory.put : Memory → Nat → Byte → Memory
  | [], a, b => [(a, b)]
  | (k, c) :: m, a, b =>
    if a < k then (a, b) :: (k, c) :: m
    else if a = k then (a, b) :: m
    else (k, c) :: Memory.put m a b

/-- List nothing at `a`. -/
def Memory.drop : Memory → Nat → Memory
  | [], _ => []
  | (k, c) :: m, a => if k = a then Memory.drop m a else (k, c) :: Memory.drop m a

/-- Write `b` at `a`, keeping the canonical form. -/
def Memory.write (d : Nat → Byte) (m : Memory) (a : Nat) (b : Byte) : Memory :=
  if b = d a then Memory.drop m a else Memory.put m a b

/-- The canonical form: strictly rising addresses, and no entry equal to what its address reads as
unlisted. -/
abbrev Memory.wf (d : Nat → Byte) (m : Memory) : Prop :=
  m.Pairwise (fun c c' => c.1 < c'.1) ∧ ∀ c ∈ m, c.2 ≠ d c.1

/-- The first address past RAM: 0x1000 (R61). -/
def memSize : Nat := 0x1000

/-- The byte of RAM at `a` (R62). A meaning reads only addresses it has checked (`withRange`). -/
def State.readByte (s : State) (a : Nat) : Byte := Memory.read (resetByte s.cfg) s.mem a

/-- `s` with the byte `b` at `a` (R63). A meaning writes only addresses it has checked (`withRange`). -/
def State.writeByte (s : State) (a : Nat) (b : Byte) : State :=
  { s with mem := Memory.write (resetByte s.cfg) s.mem a b }

/-- The `n` bytes from `a` on, in rising order. -/
def State.readBytes (s : State) (a : Nat) : Nat → List Byte
  | 0 => []
  | n + 1 => s.readByte a :: s.readBytes (a + 1) n

/-- `s` with the bytes of a list at `a`, `a + 1`, … in order. -/
def State.writeBytes (s : State) (a : Nat) : List Byte → State
  | [] => s
  | b :: bs => (s.writeByte a b).writeBytes (a + 1) bs

/-! ### Registers (10_state.md R21 to R24) -/

/-- `V[x]`. -/
def State.getV (s : State) (x : Nibble) : Byte := s.v[x.toNat]

/-- `V[x] <- b`. -/
def State.setV (s : State) (x : Nibble) (b : Byte) : State := { s with v := s.v.set x.toNat b }

/-- The index of VF (R22). -/
def vf : Nibble := 0xF#4

/-- `I <- w`. -/
def State.setI (s : State) (w : Word) : State := { s with i := w }

/-- `pc <- w`. -/
def State.setPc (s : State) (w : Word) : State := { s with pc := w }

/-- `pc <- pc + 2`: the advance of every instruction that is no control flow (R24). -/
def State.advance (s : State) : State := s.setPc (s.pc + 2#16)

/-- `V[0..n-1]`, in rising order. -/
def State.firstRegs (s : State) (n : Nat) : List Byte := s.v.toList.take n

/-- `v` with the byte `rd (a + k)` in register `k`, for every `k < n`. -/
def loadRegs (rd : Nat → Byte) (a : Nat) : Nat → Vector Byte 16 → Vector Byte 16
  | 0, v => v
  | n + 1, v => (loadRegs rd a n v).setIfInBounds n (rd (a + n))

/-! ### Call stack (10_state.md R27) -/

/-- `Stack[SP]`. -/
def State.top (s : State) : Word := s.stack[s.sp]

/-- `SP <- SP + 1; Stack[SP] <- w`, used only with SP < 15. -/
def State.push (s : State) (w : Word) : State :=
  { s with sp := s.sp + 1, stack := s.stack.set (s.sp + 1 : Fin 16).val w }

/-- `SP <- SP - 1`, used only with SP > 0; the entry is kept (R29). -/
def State.pop (s : State) : State := { s with sp := s.sp - 1 }

/-! ### Framebuffer (10_state.md R32) -/

/-- Row `y`; there is nothing lit past row 31. -/
def Frame.row (g : Frame) (y : Nat) : BitVec 64 := if h : y < 32 then g[y] else 0#64

/-- Cell `i` (R32: column `i % 64` of row `i / 64`), false for 0 and true for 1. -/
def Frame.cell (g : Frame) (i : Nat) : Bool := (g.row (i / 64)).getLsbD (i % 64)

/-- `Gfx[i] <- Gfx[i] ^ 1`, for `i < 2048`. -/
def Frame.flip (g : Frame) (i : Nat) : Frame :=
  g.setIfInBounds (i / 64) (g.row (i / 64) ^^^ BitVec.twoPow 64 (i % 64))

/-- Every cell 0. -/
def Frame.clear : Frame := Vector.replicate 32 0#64

/-- `s` with the framebuffer `g`. -/
def State.setGfx (s : State) (g : Frame) : State := { s with gfx := g }

/-! ### Keys (10_state.md R33) -/

/-- Whether key `k` is pressed: its byte is non-zero (R33). -/
def State.pressed (s : State) (k : Nibble) : Bool := s.key[k.toNat] != 0x00#8

/-- The least pressed key of `k, k + 1, …`, looking at `n` keys. -/
def State.leastPressed (s : State) : Nat → Nat → Option Nibble
  | _, 0 => none
  | k, n + 1 =>
    if s.pressed (BitVec.ofNat 4 k) then some (BitVec.ofNat 4 k) else s.leastPressed (k + 1) n

/-- The least pressed key, if any (45_keys_timers.md R253). -/
def State.firstPressed (s : State) : Option Nibble := s.leastPressed 0 16

/-! ### Timers, the tick latch and events (60_exceptions.md R280 to R283, R290) -/

/-- `DT <- b`. -/
def State.setDt (s : State) (b : Byte) : State := { s with dt := b }

/-- `ST <- b`. -/
def State.setSt (s : State) (b : Byte) : State := { s with st := b }

/-- `emit e`: the event goes to the end of the Cycle's list (R290). -/
def State.emit (s : State) (e : Event) : State := { s with events := s.events ++ [e] }

/-- The Ticker's step: `TP <- 1` (R280). -/
def State.tick (s : State) : State := { s with tp := true }

/-- A timer one lower, not below 0 (R282). -/
def decrement (b : Byte) : Byte := if b = 0x00#8 then b else b - 0x01#8

/-- The service point (R281): only where TP is set, clear it, decrement both timers, and emit Beep where
ST was 1 (R283). -/
def State.service (s : State) : State :=
  if s.tp then
    let t := { s with tp := false, dt := decrement s.dt, st := decrement s.st }
    if s.st = 0x01#8 then t.emit .beep else t
  else s

/-- The random byte of this Cycle (42_alu.md R173): a free value. -/
def State.rnd (s : State) : Byte := Config.freeRnd s.slot

/-! ### Faults (60_exceptions.md R270, R271) -/

/-- `raise F(info)` in an instruction: the Cycle ends with the record, whose `ins` is the fetched word,
OP (R270, R271). There is no trap entry: nothing vectors and no handler runs (R286). -/
def State.raise (s : State) (f : Word → Fault) : Result := .fault (f s.op)

/-- The opening of a Cycle: its event list is empty and it has free values of its own. -/
def State.beginCycle (s : State) : State := { s with events := [], slot := s.slot + 1 }

/-- `OP <- w`: the one thing of a faulting Cycle that is kept (R270, 10_state.md R35). -/
def State.setOp (s : State) (w : Word) : State := { s with op := w }

/-- The numeric code of R271. -/
def Fault.code : Fault → Nat
  | .unsupportedOpcode _ => 1
  | .unimplementedOpcode _ => 2
  | .stackOverflow .. => 3
  | .stackUnderflow .. => 4
  | .fetchRange _ => 5
  | .memRange .. => 6
  | .keyRange .. => 7
  | .drawRange .. => 8

/-- The name of R271. -/
def Fault.name : Fault → String
  | .unsupportedOpcode _ => "UNSUPPORTED_OPCODE"
  | .unimplementedOpcode _ => "UNIMPLEMENTED_OPCODE"
  | .stackOverflow .. => "STACK_OVERFLOW"
  | .stackUnderflow .. => "STACK_UNDERFLOW"
  | .fetchRange _ => "FETCH_RANGE"
  | .memRange .. => "MEM_RANGE"
  | .keyRange .. => "KEY_RANGE"
  | .drawRange .. => "DRAW_RANGE"

/-- The word of R271's record, none for a fault of the fetch. -/
def Fault.ins : Fault → Option Word
  | .unsupportedOpcode w | .unimplementedOpcode w => some w
  | .stackOverflow w _ | .stackUnderflow w _ => some w
  | .fetchRange _ => none
  | .memRange w _ => some w
  | .keyRange w _ => some w
  | .drawRange w _ => some w

/-- The info of R271's record, none where the record has none beyond the word. -/
def Fault.info : Fault → Option Nat
  | .unsupportedOpcode _ | .unimplementedOpcode _ => none
  | .stackOverflow _ pc | .stackUnderflow _ pc => some pc.toNat
  | .fetchRange pc => some pc.toNat
  | .memRange _ a => some a
  | .keyRange _ k => some k.toNat
  | .drawRange _ j => some j

/-- An "opcode fault" is either of the two (R272). -/
def Fault.isOpcodeFault : Fault → Bool
  | .unsupportedOpcode _ | .unimplementedOpcode _ => true
  | _ => false

end Sys2Proof.Machine
end

