-- ==== Sys2Proof/Machine/Operands.lean ====
section
/-! DEFINITION. The operand forms (30_encoding.md R93, R94; 20_memory.md R64; 45_keys_timers.md R256;
43_index_memory.md R202, R203; 44_display.md R231) and the checks that come with them. -/

namespace Sys2Proof.Machine

/-- `zext_16(NNN)` (R93). -/
def addrWord (nnn : Addr) : Word := nnn.setWidth 16

/-- `zext_16(b)` of a register's byte. -/
def byteWord (b : Byte) : Word := b.setWidth 16

/-- The address I holds (R61: never reduced modulo 4096). -/
def State.base (s : State) : Nat := s.i.toNat

/-- Run `k` if every one of the `len` bytes from I on lies in RAM; else MEM_RANGE with the range's first
address at or above 0x1000 (R64). No byte is checked when `len` is 0 (44_display.md R236). -/
def State.withRange (s : State) (len : Nat) (k : Result) : Result :=
  if len = 0 ∨ s.base + len ≤ memSize then k
  else s.raise (fun w => .memRange w (max s.base memSize))

/-- Run `k` on the key that V[x] names; KEY_RANGE if V[x] > 0xF (R256). -/
def State.withKey (s : State) (x : Nibble) (k : Nibble → Result) : Result :=
  if (s.getV x).toNat ≤ 0xF then k ((s.getV x).setWidth 4)
  else s.raise (fun w => .keyRange w (s.getV x))

/-- Run `k` on a core with EXT_STD; UNSUPPORTED_OPCODE on one without (30_encoding.md R100, R101). -/
def State.withExt (s : State) (k : Result) : Result :=
  if s.cfg.extStd then k else s.raise .unsupportedOpcode

/-- The skip pattern (41_control_flow.md R139): `pc + 4` if the condition holds, else `pc + 2`. -/
def State.skipIf (s : State) (c : Bool) : State := if c then s.setPc (s.pc + 4#16) else s.setPc (s.pc + 2#16)

/-- The decimal digits of a byte: hundreds, tens, ones (R203). -/
def bcdDigits (b : Byte) : List Byte :=
  [BitVec.ofNat 8 (b.toNat / 100), BitVec.ofNat 8 (b.toNat / 10 % 10), BitVec.ofNat 8 (b.toNat % 10)]

/-- The address of a glyph (R202): five bytes each, the whole byte used. -/
def fontAddress (b : Byte) : Word := byteWord b * 5#16

/-- `PixAddr(x, y)` (R231). -/
def pixAddr (p : DrawPolicy) (x y : Nat) : Nat :=
  match p with
  | .wrap => x % 64 + 64 * (y % 32)
  | .linear => x + 64 * y

end Sys2Proof.Machine
end

