-- ==== Sys2Proof/Machine/Flags.lean ====
section
/-! DEFINITION. The flag computations (42_alu.md R167 to R171; 44_display.md R233), and the order of the
result and flag writes (R160). -/

namespace Sys2Proof.Machine

/-- A flag as VF holds it. -/
def flagByte (c : Bool) : Byte := if c then 0x01#8 else 0x00#8

/-- The carry of 8XY4: `b > 255 - a` (R167). -/
def addCarry (a b : Byte) : Bool := decide (b.toNat > 255 - a.toNat)

/-- The flag of a subtraction `a - b`: NOT borrow, 0 if `b > a` else 1 (R168, R170). -/
def noBorrow (a b : Byte) : Bool := !decide (b.toNat > a.toNat)

/-- The flag of 8XY6: the old bit 0 (R169). -/
def shrOut (a : Byte) : Bool := a.getLsbD 0

/-- The flag of 8XYE: the old bit 7 (R171). -/
def shlOut (a : Byte) : Bool := a.getLsbD 7

/-- V[x] first, then VF (R160): with x = 0xF, VF ends holding the flag. -/
def State.setFlagged (s : State) (x : Nibble) (r : Byte) (c : Bool) : State :=
  (s.setV x r).setV vf (flagByte c)

end Sys2Proof.Machine
end

