-- ==== Sys2Proof/Machine/Alu.lean ====
section
/-! DEFINITION. The register and ALU instructions (42_alu.md). None can fault, but for those of EXT_STD on
a core without it; each ends with `pc <- pc + 2` (R160). -/

namespace Sys2Proof.Machine

/-- `V[x] <- r; pc <- pc + 2`. -/
def State.result (s : State) (x : Nibble) (r : Byte) : Result := .next (s.setV x r).advance

/-- `V[x] <- r; VF <- c; pc <- pc + 2` (R160). -/
def State.flagged (s : State) (x : Nibble) (r : Byte) (c : Bool) : Result :=
  .next (s.setFlagged x r c).advance

/-- LD Vx, NN (R161). -/
def execLdImm (x : Nibble) (nn : Byte) (s : State) : Result := s.result x nn

/-- ADD Vx, NN (R162): modulo 256, no flag. -/
def execAddImm (x : Nibble) (nn : Byte) (s : State) : Result := s.result x (s.getV x + nn)

/-- LD Vx, Vy (R163). -/
def execLdReg (x y : Nibble) (s : State) : Result := s.result x (s.getV y)

/-- OR Vx, Vy (R164), EXT_STD: no flag. -/
def execOrReg (x y : Nibble) (s : State) : Result := s.withExt (s.result x (s.getV x ||| s.getV y))

/-- AND Vx, Vy (R165): no flag. -/
def execAndReg (x y : Nibble) (s : State) : Result := s.result x (s.getV x &&& s.getV y)

/-- XOR Vx, Vy (R166), EXT_STD: no flag. -/
def execXorReg (x y : Nibble) (s : State) : Result := s.withExt (s.result x (s.getV x ^^^ s.getV y))

/-- ADD Vx, Vy (R167): VF = carry. -/
def execAddReg (x y : Nibble) (s : State) : Result :=
  s.flagged x (s.getV x + s.getV y) (addCarry (s.getV x) (s.getV y))

/-- SUB Vx, Vy (R168): VF = NOT borrow. -/
def execSubReg (x y : Nibble) (s : State) : Result :=
  s.flagged x (s.getV x - s.getV y) (noBorrow (s.getV x) (s.getV y))

/-- SHR Vx (R169), EXT_STD: VF = old bit 0; Y is ignored. -/
def execShr (x : Nibble) (s : State) : Result :=
  s.withExt (s.flagged x (s.getV x >>> 1) (shrOut (s.getV x)))

/-- SUBN Vx, Vy (R170), EXT_STD: VF = NOT borrow of `V[y] - V[x]`. -/
def execSubnReg (x y : Nibble) (s : State) : Result :=
  s.withExt (s.flagged x (s.getV y - s.getV x) (noBorrow (s.getV y) (s.getV x)))

/-- SHL Vx (R171), EXT_STD: VF = old bit 7; Y is ignored. -/
def execShl (x : Nibble) (s : State) : Result :=
  s.withExt (s.flagged x (s.getV x <<< 1) (shlOut (s.getV x)))

/-- RND Vx, NN (R172): the Cycle's random byte, a free value, AND NN. -/
def execRnd (x : Nibble) (nn : Byte) (s : State) : Result := s.result x (s.rnd &&& nn)

end Sys2Proof.Machine
end

