-- ==== Sys2Proof/Machine/Control.lean ====
section
/-! DEFINITION. Control flow: SYS, RET, JP, CALL, JP V0 and the skips on registers (41_control_flow.md). -/

namespace Sys2Proof.Machine

/-- SYS NNN (R130): always UNIMPLEMENTED_OPCODE; NNN is unused and no state is written. -/
def execSys (_nnn : Addr) (s : State) : Result := s.raise .unimplementedOpcode

/-- RET (R131): `pc <- Stack[SP] + 2; SP <- SP - 1`, or STACK_UNDERFLOW when SP = 0. -/
def execRet (s : State) : Result :=
  if s.sp = 0 then s.raise (fun w => .stackUnderflow w s.pc)
  else .next ((s.setPc (s.top + 2#16)).pop)

/-- JP NNN (R132). -/
def execJp (nnn : Addr) (s : State) : Result := .next (s.setPc (addrWord nnn))

/-- CALL NNN (R133): the address of the CALL itself is pushed; STACK_OVERFLOW when SP = 15. -/
def execCall (nnn : Addr) (s : State) : Result :=
  if s.sp = 15 then s.raise (fun w => .stackOverflow w s.pc)
  else .next ((s.push s.pc).setPc (addrWord nnn))

/-- JP V0, NNN (R134), EXT_STD: NNN + V0. -/
def execJpV0 (nnn : Addr) (s : State) : Result :=
  s.withExt (.next (s.setPc (addrWord nnn + byteWord (s.getV 0x0#4))))

/-- SE Vx, NN (R135). -/
def execSeImm (x : Nibble) (nn : Byte) (s : State) : Result := .next (s.skipIf (s.getV x == nn))

/-- SNE Vx, NN (R136). -/
def execSneImm (x : Nibble) (nn : Byte) (s : State) : Result := .next (s.skipIf (s.getV x != nn))

/-- SE Vx, Vy (R137). -/
def execSeReg (x y : Nibble) (s : State) : Result := .next (s.skipIf (s.getV x == s.getV y))

/-- SNE Vx, Vy (R138). -/
def execSneReg (x y : Nibble) (s : State) : Result := .next (s.skipIf (s.getV x != s.getV y))

end Sys2Proof.Machine
end

