-- ==== Sys2Proof/Machine/Display.lean ====
section
/-! DEFINITION. The display instructions (44_display.md). -/

namespace Sys2Proof.Machine

/-- CLS (R230): every cell 0, no Draw event. -/
def execCls (s : State) : Result := .next (s.setGfx Frame.clear).advance

/-- The indices of one sprite row's set bits, `c` ascending from the most significant bit: the `n` columns
from `c` on (R233). -/
def rowCells (p : DrawPolicy) (x y : Nat) (b : Byte) : Nat → Nat → List Nat
  | _, 0 => []
  | c, n + 1 =>
    if b.getLsbD (7 - c) then pixAddr p (x + c) y :: rowCells p x y b (c + 1) n
    else rowCells p x y b (c + 1) n

/-- The indices of a sprite's set bits in row-major order (R232, R233), its rows from `y` on. -/
def spriteCells (p : DrawPolicy) (x y : Nat) : List Byte → List Nat
  | [] => []
  | b :: bs => rowCells p x y b 0 8 ++ spriteCells p x (y + 1) bs

/-- Under LINEAR, the first index of 2048 or more (R232); under WRAP none is looked for. -/
def drawOutside (p : DrawPolicy) (cells : List Nat) : Option Nat :=
  match p with
  | .wrap => none
  | .linear => cells.find? (fun j => decide (2048 ≤ j))

/-- Flip every cell of a list in order, and whether one was lit when its turn came (R233). -/
def blit : List Nat → Frame × Bool → Frame × Bool
  | [], r => r
  | j :: js, (g, hit) => blit js (g.flip j, hit || g.cell j)

/-- The cells that DRW Vx, Vy, N flips: the operands are read before VF is cleared (R233). -/
def State.drwCells (s : State) (x y n : Nibble) : List Nat :=
  spriteCells s.cfg.drawPolicy (s.getV x).toNat (s.getV y).toNat (s.readBytes s.base n.toNat)

/-- `s` after a sprite of these cells is drawn: the cells flipped, VF the collision, one Draw event. -/
def State.drawCells (s : State) (cells : List Nat) : State :=
  ((s.setGfx (blit cells (s.gfx, false)).1).setV vf (flagByte (blit cells (s.gfx, false)).2)).emit .draw

/-- DRW Vx, Vy, N (R233): MEM_RANGE is checked before DRAW_RANGE (60_exceptions.md R279). -/
def execDrw (x y n : Nibble) (s : State) : Result :=
  s.withRange n.toNat
    (match drawOutside s.cfg.drawPolicy (s.drwCells x y n) with
    | some j => s.raise (fun w => .drawRange w j)
    | none => .next (s.drawCells (s.drwCells x y n)).advance)

end Sys2Proof.Machine
end

