-- ==== Sys2Proof/Machine/IndexMem.lean ====
section
/-! DEFINITION. The index register and memory instructions (43_index_memory.md). The range check of
20_memory.md R64 runs before any access; I is left as it is by every access. -/

namespace Sys2Proof.Machine

/-- LD I, NNN (R200). -/
def execLdI (nnn : Addr) (s : State) : Result := .next (s.setI (addrWord nnn)).advance

/-- ADD I, Vx (R201), EXT_STD: modulo 2^16, VF not written. -/
def execAddI (x : Nibble) (s : State) : Result :=
  s.withExt (.next (s.setI (s.i + byteWord (s.getV x))).advance)

/-- LD F, Vx (R202): the whole byte times 5. -/
def execLdF (x : Nibble) (s : State) : Result := .next (s.setI (fontAddress (s.getV x))).advance

/-- LD B, Vx (R203): the decimal digits of V[x] at I, I+1, I+2. -/
def execLdB (x : Nibble) (s : State) : Result :=
  s.withRange 3 (.next (s.writeBytes s.base (bcdDigits (s.getV x))).advance)

/-- LD [I], Vx (R204), EXT_STD: V0 to Vx at I to I+x. -/
def execLdMemVx (x : Nibble) (s : State) : Result :=
  s.withExt (s.withRange (x.toNat + 1)
    (.next (s.writeBytes s.base (s.firstRegs (x.toNat + 1))).advance))

/-- `s` with the bytes at I to I+x in V0 to Vx. -/
def State.loadBlock (s : State) (x : Nibble) : State :=
  { s with v := loadRegs s.readByte s.base (x.toNat + 1) s.v }

/-- LD Vx, [I] (R205). -/
def execLdVxMem (x : Nibble) (s : State) : Result :=
  s.withRange (x.toNat + 1) (.next (s.loadBlock x).advance)

end Sys2Proof.Machine
end

