-- ==== Sys2Proof/Machine/KeysTimers.lean ====
section
/-! DEFINITION. The key and timer instructions (45_keys_timers.md). -/

namespace Sys2Proof.Machine

/-- SKP Vx (R250), EXT_STD: skip if the key is pressed. -/
def execSkp (x : Nibble) (s : State) : Result :=
  s.withExt (s.withKey x (fun k => .next (s.skipIf (s.pressed k))))

/-- SKNP Vx (R251): skip if the key is not pressed. -/
def execSknp (x : Nibble) (s : State) : Result :=
  s.withKey x (fun k => .next (s.skipIf (!s.pressed k)))

/-- LD Vx, DT (R252): DT before this Cycle's service. -/
def execLdVxDt (x : Nibble) (s : State) : Result := .next (s.setV x s.dt).advance

/-- LD Vx, K (R253), EXT_STD: the least pressed key; while none is pressed, pc stays and the instruction
runs again. -/
def execLdVxK (x : Nibble) (s : State) : Result :=
  s.withExt (match s.firstPressed with
    | some k => .next (s.setV x (k.setWidth 8)).advance
    | none => .next s)

/-- LD DT, Vx (R254). -/
def execLdDtVx (x : Nibble) (s : State) : Result := .next (s.setDt (s.getV x)).advance

/-- LD ST, Vx (R255): writing ST emits no Beep. -/
def execLdStVx (x : Nibble) (s : State) : Result := .next (s.setSt (s.getV x)).advance

end Sys2Proof.Machine
end

