-- ==== Sys2Proof/Machine/Cycle.lean ====
section
/-! DEFINITION. The Cycle: fetch, decode, execute, service (30_encoding.md R95), and the Ticker's turn
between Cycles (60_exceptions.md R280). -/

namespace Sys2Proof.Machine

/-- Fetch (20_memory.md R65, 30_encoding.md R96): the two bytes at pc, big-endian; FETCH_RANGE when
pc ≥ 0xFFF, before any byte is read (60_exceptions.md R273). pc is not changed. -/
def State.fetch (s : State) : Except Fault Word :=
  if 0xFFF ≤ s.pc.toNat then .error (.fetchRange s.pc)
  else .ok (wordOfBytes (s.readByte s.pc.toNat) (s.readByte (s.pc.toNat + 1)))

/-- The fault of a word that does not decode (R101). -/
def decodeFault (w : Word) : DecodeError → Fault
  | .unsupported ins => .unsupportedOpcode ins
  | .truncated => .unsupportedOpcode w

/-- The end of a Cycle: the service point comes only after an instruction that completed (60_exceptions.md
R281, R284). -/
def finish : Result → Result
  | .next t => .next t.service
  | .fault f => .fault f
  | .refused r => .refused r

/-- One `Cycle` (R95): its `next` is Ok, with the events in the new state's `events`; its `fault` is Fault,
and `faulted` gives the state it leaves. -/
def cycle (s : State) : Result :=
  match s.fetch with
  | .error f => .fault f
  | .ok w =>
    match decode s.cfg.extStd w with
    | .error e => .fault (decodeFault w e)
    | .ok i => finish (exec i (s.beginCycle.setOp w))

/-- The state a faulting Cycle leaves (60_exceptions.md R270, R284): nothing written but OP, and OP only
where a word was fetched (10_state.md R35); no event, no service. -/
def faulted (s : State) : State :=
  match s.fetch with
  | .error _ => s.beginCycle
  | .ok w => s.beginCycle.setOp w

/-- Whether the Ticker fires in the turn that comes now: as settled, else free (R280). -/
def State.tickerFires (s : State) : Bool :=
  match s.ticks with
  | b :: _ => b
  | [] => Config.freeTick s.slot

/-- The Ticker's turn between two Cycles: `TP <- 1` if it fires; firing while TP = 1 changes nothing
(R280, 10_state.md R34). -/
def tickerTurn (s : State) : State :=
  { s with tp := s.tp || s.tickerFires, ticks := s.ticks.tail }

/-- A step of the machine: the Ticker's turn, then the Core's Cycle. -/
def tickAndCycle (s : State) : Result := cycle (tickerTurn s)

/-- Whether a word is an instruction only of a core with EXT_STD (30_encoding.md R100). -/
def extOnly (w : Word) : Bool :=
  match decode false w, decode true w with
  | .error _, .ok _ => true
  | _, _ => false

/-- `s` with the word `w` where the next fetch reads it, if there is such a place; for a word of
30_encoding.md R100 the core is one with EXT_STD (log entry 12). -/
def placeWord (s : State) (w : Word) : State :=
  let t := if 0xFFF ≤ s.pc.toNat then s
    else (s.writeByte s.pc.toNat (hiByte w)).writeByte (s.pc.toNat + 1) (loByte w)
  if extOnly w then { t with cfg := { t.cfg with extStd := true } } else t

end Sys2Proof.Machine
end

