-- ==== Sys2Proof/Machine/Step.lean ====
section
/-! DEFINITION. One step of the machine, and the host's way to place the next instruction. Both only call
`Machine/Cycle.lean`. -/

namespace Sys2Proof.Machine

/-- One step: the Ticker's turn between Cycles (60_exceptions.md R280), then one Cycle (30_encoding.md R95). -/
def step (s : State) : Host.Outcome State Fault Refusal := tickAndCycle s

/-- `s` with the instruction whose bits are `w` (numbered as spec/opcode_table.json numbers them) stored
where `step` fetches its next instruction (log entry 12). -/
def State.withFetchWord (s : State) (nbits w : Nat) : State := placeWord s (tableWord nbits w)

end Sys2Proof.Machine
end

