-- ==== Sys2Proof/Machine/Entry.lean ====
section
/-! DEFINITION. The entry points (60_exceptions.md R300 to R309; 70_reset_and_hazards.md R320 to R327), and
the moves of the three agents (00_scope.md R8), which happen one at a time and in any order (60 R305,
70 R333). -/

namespace Sys2Proof.Machine

/-- One move of an agent: the Ticker's, or a call of an entry point by the Host. -/
inductive Move where
  /-- The Ticker fires (R280). -/
  | tick
  /-- `Reset` (R320). -/
  | reset
  /-- `Load(b)` (R324). -/
  | load (b : List Byte)
  /-- `Cycle` (R301). -/
  | cycle
  /-- `PixelSet(i)` (R302). -/
  | pixelSet (i : Nat)
  /-- `KeyDown(k)` (R303). -/
  | keyDown (k : Nat)
  /-- `KeysClear()` (R304). -/
  | keysClear
  deriving DecidableEq, Repr

/-- What an entry point returns (R300, R306). -/
inductive Reply where
  /-- No result. -/
  | none
  /-- `Load`: Ok (R324). -/
  | loaded
  /-- `Load`: the host error LOAD_REFUSED (R326). -/
  | loadRefused
  /-- `Load`: the host error LOAD_OVERFLOW(n) (R325). -/
  | loadOverflow (n : Nat)
  /-- The host error HOST_RANGE (R302, R303). -/
  | hostRange
  /-- `PixelSet`: the cell (R302). -/
  | pixel (b : Bool)
  /-- `Cycle`: Ok(events) (R301, R290). -/
  | ok (events : List Event)
  /-- `Cycle`: Fault(record) (R301). -/
  | fault (f : Fault)
  /-- `Cycle`: the model gives the instruction no meaning; no instruction does this. -/
  | refused (r : Refusal)
  deriving DecidableEq, Repr

/-- `Reset` (R320, R321): every piece of state to its reset value, whatever it was. The configuration
stays (10_state.md R39), and so do the model's own inputs, so that no free value is drawn twice (log entry 6). -/
def State.hostReset (s : State) : State :=
  { State.resetWith s.cfg with slot := s.slot, ticks := s.ticks }

/-- The most bytes a program has: 4096 - 0x200 (00_scope.md R6). -/
def maxRom : Nat := 3584

/-- Where `Load` puts the first byte (R324). -/
def progStart : Nat := 0x200

/-- `Load` (R324 to R326): a second Load is refused first, then one that is too long. -/
def State.hostLoad (s : State) (b : List Byte) : State × Reply :=
  if s.loaded then (s, .loadRefused)
  else if maxRom < b.length then (s, .loadOverflow b.length)
  else ({ s.writeBytes progStart b with loaded := true }, .loaded)

/-- `Cycle` (R301): Ok with the events, or the fault record and the state the faulting Cycle leaves. -/
def State.hostCycle (s : State) : State × Reply :=
  match cycle s with
  | .next t => (t, .ok t.events)
  | .fault f => (faulted s, .fault f)
  | .refused r => (s, .refused r)

/-- `PixelSet(i)` (R302): reads one cell and changes nothing. -/
def State.hostPixelSet (s : State) (i : Nat) : State × Reply :=
  if i < 2048 then (s, .pixel (s.gfx.cell i)) else (s, .hostRange)

/-- `KeyDown(k)` (R303): `Key[k] <- 1`. -/
def State.hostKeyDown (s : State) (k : Nat) : State × Reply :=
  if h : k < 16 then ({ s with key := s.key.set k 0x01#8 }, .none) else (s, .hostRange)

/-- `KeysClear()` (R304): every entry 0. -/
def State.hostKeysClear (s : State) : State := { s with key := Vector.replicate 16 0x00#8 }

/-- A move, with what it returns. -/
def move (m : Move) (s : State) : State × Reply :=
  match m with
  | .tick => (s.tick, .none)
  | .reset => (s.hostReset, .none)
  | .load b => s.hostLoad b
  | .cycle => s.hostCycle
  | .pixelSet i => s.hostPixelSet i
  | .keyDown k => s.hostKeyDown k
  | .keysClear => (s.hostKeysClear, .none)

/-- A run of the whole system: the agents' moves in the order in which they happen, and every reply in
that order, the output trace of R290. -/
def runMoves : List Move → State → State × List Reply
  | [], s => (s, [])
  | m :: ms, s =>
    let r := move m s
    let rest := runMoves ms r.1
    (rest.1, r.2 :: rest.2)

end Sys2Proof.Machine
end

