-- ==== Sys2Proof/Safety.lean ====
section
/-! DEFINITION. The terms claims are stated in: the invariant of the state, what a transition leaves
unchanged, and when a program has reached its halt. -/

namespace Sys2Proof.Machine

/-- The invariant of every state a run reaches: memory is canonical and lists only addresses of RAM; pc is
at most 0x10FE (10_state.md R26); every return address is one a CALL could be fetched from (R26, R27);
`Stack[0]` was never written (R27). -/
structure State.Inv (s : State) : Prop where
  memWf : Memory.wf (resetByte s.cfg) s.mem
  memIn : ∀ c ∈ s.mem, c.1 < memSize
  pcLe : s.pc.toNat ≤ 0x10FE
  stackLe : ∀ k : Fin 16, s.stack[k].toNat ≤ 0xFFE
  stackZero : s.stack[0] = 0x0000#16

/-- What a transition may write: which registers, stack entries, bytes and cells, and which of the other
pieces. Fields not named by it (Key, OP, TP, LOADED, the configuration and the model's own inputs) are written
by no instruction, and pc by every one (10_state.md R42). -/
structure Writes where
  v : Nibble → Bool := fun _ => false
  i : Bool := false
  stack : Fin 16 → Bool := fun _ => false
  sp : Bool := false
  dt : Bool := false
  st : Bool := false
  mem : Nat → Bool := fun _ => false
  gfx : Nat → Prop := fun _ => False
  events : Bool := false

/-- `t` is `s` outside what `w` names and pc: every other register, every other stack entry, every other byte
of memory at any address, every other cell and every other piece of state is as it was, the model's own `slot`
and `ticks` too (log entries 5 and 6). -/
structure SameBut (w : Writes) (s t : State) : Prop where
  v : ∀ r, w.v r = false → t.getV r = s.getV r
  i : w.i = false → t.i = s.i
  stack : ∀ k : Fin 16, w.stack k = false → t.stack[k] = s.stack[k]
  sp : w.sp = false → t.sp = s.sp
  dt : w.dt = false → t.dt = s.dt
  st : w.st = false → t.st = s.st
  mem : ∀ a, w.mem a = false → t.readByte a = s.readByte a
  gfx : ∀ j, ¬ w.gfx j → t.gfx.cell j = s.gfx.cell j
  events : w.events = false → t.events = s.events
  key : t.key = s.key
  op : t.op = s.op
  tp : t.tp = s.tp
  loaded : t.loaded = s.loaded
  cfg : t.cfg = s.cfg
  slot : t.slot = s.slot
  ticks : t.ticks = s.ticks

/-- The program has reached halt `h` (70_reset_and_hazards.md R336): a Cycle from `s` completes in `t`
with pc = `h`, and the word at `h` is the jump to `h`. -/
def ReachesHalt (h : Addr) (s t : State) : Prop :=
  cycle s = .next t ∧ t.pc = addrWord h ∧ t.fetch = .ok (wordNNN 0x1#4 h)

/-- Every word of these primary and secondary keys decodes as `f` gives it (30_encoding.md R97, R98). -/
def ReadsAs (ext : Bool) (mask pat : Word) (f : Word → Instr) : Prop :=
  ∀ w : Word, w &&& mask = pat → decode ext w = .ok (f w)

/-- Every word of these keys is unsupported on a core without EXT_STD (30_encoding.md R100, R101). -/
def UnsupportedAs (mask pat : Word) : Prop :=
  ∀ w : Word, w &&& mask = pat → decode false w = .error (.unsupported w)

/-- The values of R41 in every piece of state the spec names, for FONT as `r` is configured. -/
structure IsReset (r : State) : Prop where
  v : ∀ x, r.getV x = 0x00#8
  i : r.i = 0x0000#16
  pc : r.pc = 0x200#16
  stack : ∀ k : Fin 16, r.stack[k] = 0x0000#16
  sp : r.sp = 0
  dt : r.dt = 0x00#8
  st : r.st = 0x00#8
  font : ∀ a (h : a < 0x50), r.readByte a = r.cfg.font[a]
  mem : ∀ a, 0x50 ≤ a → a < 0x1000 → r.readByte a = 0x00#8
  gfx : ∀ j, j < 2048 → r.gfx.cell j = false
  key : ∀ k : Fin 16, r.key[k] = 0x00#8
  op : r.op = 0x0000#16
  tp : r.tp = false
  loaded : r.loaded = false
  events : r.events = []

/-- The sprite bit of row `r` and column `c`; column 0 is the most significant bit (44_display.md R233). -/
def State.spriteBit (s : State) (r c : Nat) : Bool := (s.readByte (s.base + r)).getLsbD (7 - c)

/-- The index of the sprite's pixel in row `r` and column `c` (R231, R233). -/
def State.pixelAt (s : State) (x y : Nibble) (r c : Nat) : Nat :=
  pixAddr s.cfg.drawPolicy ((s.getV x).toNat + c) ((s.getV y).toNat + r)

/-- A set bit of the sprite that DRW Vx, Vy, N draws falls on cell `j`. -/
def State.Covers (s : State) (x y n : Nibble) (j : Nat) : Prop :=
  ∃ r c, r < n.toNat ∧ c < 8 ∧ s.spriteBit r c = true ∧ s.pixelAt x y r c = j

/-- What each instruction may write besides pc: RET no stack entry, CALL the one above the top, DXYN the
cells its set bits fall on (10_state.md R42; the registers and the bytes that 42_alu.md,
43_index_memory.md, 44_display.md and 45_keys_timers.md name). -/
def mayWrite (s : State) : Instr → Writes
  | .cls => { gfx := fun _ => True }
  | .ret => { sp := true }
  | .call _ => { sp := true, stack := fun k => k == s.sp + 1 }
  | .sys _ | .jp _ | .jpV0 _ | .seImm .. | .sneImm .. | .seReg .. | .sneReg .. | .skp _ | .sknp _ => {}
  | .ldImm x _ | .addImm x _ | .ldReg x _ | .orReg x _ | .andReg x _ | .xorReg x _ | .rnd x _
  | .ldVxDt x | .ldVxK x => { v := fun r => r == x }
  | .addReg x _ | .subReg x _ | .shr x | .subnReg x _ | .shl x => { v := fun r => r == x || r == vf }
  | .ldI _ | .addI _ | .ldF _ => { i := true }
  | .drw x y n => { v := fun r => r == vf, gfx := s.Covers x y n, events := true }
  | .ldDtVx _ => { dt := true }
  | .ldStVx _ => { st := true }
  | .ldB _ => { mem := fun a => decide (s.base ≤ a ∧ a ≤ s.base + 2) }
  | .ldMemVx x => { mem := fun a => decide (s.base ≤ a ∧ a ≤ s.base + x.toNat) }
  | .ldVxMem x => { v := fun r => decide (r.toNat ≤ x.toNat) }

/-- How many bytes from I on an instruction accesses (20_memory.md R64, R69). -/
def rangeLen : Instr → Option Nat
  | .drw _ _ n => some n.toNat
  | .ldB _ => some 3
  | .ldMemVx x | .ldVxMem x => some (x.toNat + 1)
  | _ => none

/-- The range through I that an instruction accesses leaves RAM (20_memory.md R64). -/
def State.LeavesRam (s : State) (i : Instr) : Prop :=
  ∃ len, rangeLen i = some len ∧ 0 < len ∧ 0xFFF < s.i.toNat + len - 1

/-- Which faults each instruction may raise, with which record and in which case (60_exceptions.md R271,
R279), from the state `s`. -/
def MayRaise (s : State) (f : Fault) : Instr → Prop
  | .sys _ => f = .unimplementedOpcode s.op
  | .ret => f = .stackUnderflow s.op s.pc ∧ s.sp = 0
  | .call _ => f = .stackOverflow s.op s.pc ∧ s.sp = 15
  | .orReg .. | .xorReg .. | .shr _ | .subnReg .. | .shl _ | .jpV0 _ | .ldVxK _ | .addI _ =>
    f = .unsupportedOpcode s.op ∧ s.cfg.extStd = false
  | .skp x => (f = .unsupportedOpcode s.op ∧ s.cfg.extStd = false) ∨
      (f = .keyRange s.op (s.getV x) ∧ s.cfg.extStd = true ∧ 0xF < (s.getV x).toNat)
  | .sknp x => f = .keyRange s.op (s.getV x) ∧ 0xF < (s.getV x).toNat
  | .ldMemVx x => (f = .unsupportedOpcode s.op ∧ s.cfg.extStd = false) ∨
      (f = .memRange s.op (max s.i.toNat 0x1000) ∧ s.cfg.extStd = true ∧ s.LeavesRam (.ldMemVx x))
  | .ldB x => f = .memRange s.op (max s.i.toNat 0x1000) ∧ s.LeavesRam (.ldB x)
  | .ldVxMem x => f = .memRange s.op (max s.i.toNat 0x1000) ∧ s.LeavesRam (.ldVxMem x)
  | .drw x y n => (f = .memRange s.op (max s.i.toNat 0x1000) ∧ s.LeavesRam (.drw x y n)) ∨
      ∃ j, f = .drawRange s.op j ∧ s.cfg.drawPolicy = .linear ∧ ¬ s.LeavesRam (.drw x y n) ∧
        s.Covers x y n j ∧ 2048 ≤ j
  | .cls | .jp _ | .seImm .. | .sneImm .. | .seReg .. | .ldImm .. | .addImm .. | .ldReg .. | .andReg ..
  | .addReg .. | .subReg .. | .sneReg .. | .ldI _ | .rnd .. | .ldVxDt _ | .ldDtVx _ | .ldStVx _
  | .ldF _ => False

/-- Whether an instruction is DXYN. -/
def isDrw : Instr → Bool
  | .drw .. => true
  | _ => false

/-- A result with a function applied to its next state. -/
def onNext (g : State → State) : Result → Result
  | .next t => .next (g t)
  | .fault f => .fault f
  | .refused r => .refused r

/-- Whether the instruction at pc is LD DT, Vx. -/
def State.atLdDt (s : State) : Bool :=
  match s.fetch with
  | .ok w =>
    match decode s.cfg.extStd w with
    | .ok (.ldDtVx _) => true
    | _ => false
  | .error _ => false

/-- Cycles one after another, each with or without a firing of the Ticker before it; none if one faults
or is LD DT, Vx. -/
def runTicks : List Bool → State → Option State
  | [], s => some s
  | b :: bs, s =>
    if s.atLdDt then none
    else match cycle (if b then s.tick else s) with
      | .next t => runTicks bs t
      | _ => none

end Sys2Proof.Machine
end

