-- ==== Sys2Proof/Certificates/Slice0/Obligations.lean ====
section
/-! DEFINITION. The statements for the provers. Each docstring names the rules of spec/ it formalises. -/

open Sys2Proof Sys2Proof.Machine

/-! ### Reset, fetch and the step -/

/-- R41, R320: Reset leaves every piece of state at its reset value, whatever it was, and keeps the
configuration; `State.reset` is such a state, with the parameters this hardware takes (00_scope.md R7). -/
def Obligations.ResetValues : Prop :=
  (∀ s : State, IsReset s.hostReset ∧ s.hostReset.cfg = s.cfg) ∧
    IsReset State.reset ∧ State.reset.cfg.extStd = false ∧ State.reset.cfg.drawPolicy = .wrap

/-- R327: a Cycle right after Reset raises UNIMPLEMENTED_OPCODE on the word 0x0000, and a Load is still
accepted afterwards. -/
def Obligations.CycleBeforeLoad : Prop :=
  ∀ (s : State) (b : List Byte), b.length ≤ 3584 →
    ∃ t, move .cycle s.hostReset = (t, .fault (.unimplementedOpcode 0x0000#16)) ∧ IsReset t ∧
      (move (.load b) t).2 = .loaded

/-- R65, R273: fetch is big-endian and checks no alignment; at pc ≥ 0xFFF the Cycle raises FETCH_RANGE(pc)
and OP keeps its value. -/
def Obligations.FetchBigEndian : Prop :=
  ∀ s : State,
    (s.pc.toNat < 0xFFF → ∃ w, s.fetch = .ok w ∧
      w.toNat = (s.readByte s.pc.toNat).toNat * 256 + (s.readByte (s.pc.toNat + 1)).toNat ∧
      ∀ t, cycle s = .next t → t.op = w) ∧
    (0xFFF ≤ s.pc.toNat → cycle s = .fault (.fetchRange s.pc) ∧ (faulted s).op = s.op)

/-- R95, R96, R280: where the bytes at pc decode to `i`, a step is `exec i` on the state after the Ticker's
turn, with OP the word and an empty event list, and then the service point. `slot` and `ticks` are the
model's own (log entries 5 and 6). -/
def Obligations.StepRunsDecoded : Prop :=
  ∀ (s : State) (i : Instr), s.pc.toNat < 0xFFF →
    decodeBytes s.cfg.extStd [s.readByte s.pc.toNat, s.readByte (s.pc.toNat + 1)] = .ok (i, []) →
    ∃ u : State,
      u = { s with
        tp := s.tp || s.tickerFires
        ticks := s.ticks.tail
        events := []
        slot := s.slot + 1
        op := wordOfBytes (s.readByte s.pc.toNat) (s.readByte (s.pc.toNat + 1)) } ∧
      (∀ t, exec i u = .next t → step s = .next t.service) ∧
      (∀ f, exec i u = .fault f → step s = .fault f) ∧
      (∀ r, exec i u = .refused r → step s = .refused r)

/-- R99, R100, R105: words written out from the opcode map decode to their instructions. -/
def Obligations.WrittenWordsDecode : Prop :=
  decode false 0x00E0#16 = .ok .cls ∧ decode false 0x0AEE#16 = .ok .ret ∧
  decode false 0x2ABC#16 = .ok (.call 0xABC#12) ∧ decode false 0x3342#16 = .ok (.seImm 3#4 0x42#8) ∧
  decode false 0x8125#16 = .ok (.subReg 1#4 2#4) ∧ decode true 0x823E#16 = .ok (.shl 2#4) ∧
  decode false 0xA2F0#16 = .ok (.ldI 0x2F0#12) ∧ decode false 0xD345#16 = .ok (.drw 3#4 4#4 5#4) ∧
  decode false 0xE1A1#16 = .ok (.sknp 1#4) ∧ decode false 0xF265#16 = .ok (.ldVxMem 2#4) ∧
  decode false 0xF055#16 = .error (.unsupported 0xF055#16)

/-! ### Encoding -/

/-- R105, R109: for every word and both values of EXT_STD, Decode gives what the first-match reading of the
opcode table gives. -/
def Obligations.DecodeFollowsTable : Prop :=
  ∀ (ext : Bool) (w : Word), decode ext w = tableDecode ext w

/-- R92, R99, R100: decoding the encoding of an instruction that the core has gives it back, every operand
at every value; from bytes too, with what follows left over. -/
def Obligations.DecodeEncode : Prop :=
  ∀ (ext : Bool) (i : Instr) (rest : List Byte), i.wfIn ext = true →
    decode ext (encode i) = .ok i ∧ decodeBytes ext (encodeBytes i ++ rest) = .ok (i, rest)

/-- R9, R102: what Decode gives is an instruction that the core has. -/
def Obligations.DecodedIsWellFormed : Prop :=
  ∀ (ext : Bool) (w : Word) (i : Instr), decode ext w = .ok i → i.wfIn ext = true

/-- R101, R175: exactly these words are unsupported, and a Cycle that fetches one raises
UNSUPPORTED_OPCODE with the word. -/
def Obligations.UnsupportedWords : Prop :=
  (∀ (ext : Bool) (w : Word), decode ext w = .error (.unsupported w) ↔
    (fieldF w = 0x8#4 ∧ (fieldN w ∈ [0x8#4, 0x9#4, 0xA#4, 0xB#4, 0xC#4, 0xD#4, 0xF#4] ∨
      (ext = false ∧ fieldN w ∈ [0x1#4, 0x3#4, 0x6#4, 0x7#4, 0xE#4]))) ∨
    (fieldF w = 0xB#4 ∧ ext = false) ∨
    (fieldF w = 0xE#4 ∧ fieldNN w ≠ 0xA1#8 ∧ (ext = false ∨ fieldNN w ≠ 0x9E#8)) ∨
    (fieldF w = 0xF#4 ∧ fieldNN w ∉ [0x07#8, 0x15#8, 0x18#8, 0x29#8, 0x33#8, 0x65#8] ∧
      (ext = false ∨ fieldNN w ∉ [0x0A#8, 0x1E#8, 0x55#8]))) ∧
  (∀ (s : State) (w : Word), s.fetch = .ok w → decode s.cfg.extStd w = .error (.unsupported w) →
    cycle s = .fault (.unsupportedOpcode w))

/-- R103: the ignored bits change nothing of what a word decodes to. -/
def Obligations.IgnoredBits : Prop :=
  (∀ ext, ReadsAs ext 0xF0FF#16 0x00E0#16 (fun _ => .cls)) ∧
  (∀ ext, ReadsAs ext 0xF0FF#16 0x00EE#16 (fun _ => .ret)) ∧
  (∀ (ext : Bool) (w : Word), fieldF w = 0x5#4 ∨ fieldF w = 0x9#4 →
    decode ext w = decode ext (w &&& 0xFFF0#16)) ∧
  (∀ w : Word, fieldF w = 0x8#4 → fieldN w = 0x6#4 ∨ fieldN w = 0xE#4 →
    decode true w = decode true (w &&& 0xFF0F#16))

/-! ### Control flow -/

/-- R130, R102: every 0NNN word whose low byte is neither 0xE0 nor 0xEE is SYS; SYS always raises
UNIMPLEMENTED_OPCODE with the word, and nothing but OP is written: pc stays. -/
def Obligations.SysRaises : Prop :=
  (∀ (ext : Bool) (w : Word), fieldF w = 0x0#4 → fieldNN w ≠ 0xE0#8 → fieldNN w ≠ 0xEE#8 →
    decode ext w = .ok (.sys (fieldNNN w))) ∧
  (∀ (nnn : Addr) (s : State), exec (.sys nnn) s = .fault (.unimplementedOpcode s.op)) ∧
  (∀ (s : State) (w : Word), s.fetch = .ok w → fieldF w = 0x0#4 → fieldNN w ≠ 0xE0#8 →
    fieldNN w ≠ 0xEE#8 →
    cycle s = .fault (.unimplementedOpcode w) ∧
    faulted s = { s with op := w, events := [], slot := (faulted s).slot })

/-- R131, R275: RET with SP > 0 resumes after the CALL that the top entry names, and keeps the entry; with
SP = 0 it raises STACK_UNDERFLOW. -/
def Obligations.RetReturns : Prop :=
  (∀ ext, ReadsAs ext 0xF0FF#16 0x00EE#16 (fun _ => .ret)) ∧
  (∀ s : State, s.sp ≠ 0 → ∃ t, exec .ret s = .next t ∧
    t.pc = s.stack[s.sp] + 2#16 ∧ t.sp.val = s.sp.val - 1 ∧ t.stack = s.stack ∧
    SameBut { sp := true } s t) ∧
  (∀ s : State, s.sp = 0 → exec .ret s = .fault (.stackUnderflow s.op s.pc))

/-- R132: JP NNN sets pc to NNN; a target of 0xFFF makes the next fetch raise FETCH_RANGE; its Cycle, a
self-jump's too, runs the timer service. -/
def Obligations.JpJumps : Prop :=
  (∀ ext, ReadsAs ext 0xF000#16 0x1000#16 (fun w => .jp (fieldNNN w))) ∧
  (∀ (nnn : Addr) (s : State), ∃ t, exec (.jp nnn) s = .next t ∧ t.pc.toNat = nnn.toNat ∧
    (0xFFF ≤ nnn.toNat → t.fetch = .error (.fetchRange t.pc)) ∧ SameBut {} s t) ∧
  (∀ (nnn : Addr) (s : State), s.fetch = .ok (wordNNN 0x1#4 nnn) → ∃ t, cycle s = .next t ∧
    t.pc.toNat = nnn.toNat ∧ (s.tp = true → t.tp = false ∧ t.dt.toNat = s.dt.toNat - 1 ∧
      t.st.toNat = s.st.toNat - 1))

/-- R133, R274: CALL NNN with SP < 15 pushes its own address and jumps; with SP = 15 it raises
STACK_OVERFLOW. -/
def Obligations.CallPushes : Prop :=
  (∀ ext, ReadsAs ext 0xF000#16 0x2000#16 (fun w => .call (fieldNNN w))) ∧
  (∀ (nnn : Addr) (s : State), s.sp ≠ 15 → ∃ t, exec (.call nnn) s = .next t ∧
    t.sp.val = s.sp.val + 1 ∧ t.stack[t.sp] = s.pc ∧
    (∀ k : Fin 16, k ≠ t.sp → t.stack[k] = s.stack[k]) ∧ t.pc.toNat = nnn.toNat ∧
    SameBut { sp := true, stack := fun k => k == t.sp } s t) ∧
  (∀ (nnn : Addr) (s : State), s.sp = 15 → exec (.call nnn) s = .fault (.stackOverflow s.op s.pc))

/-- R131, R133: a RET that finds the stack as the CALL left it restores SP and goes on after the CALL. -/
def Obligations.CallThenRet : Prop :=
  ∀ (nnn : Addr) (s t u : State), exec (.call nnn) s = .next t → u.sp = t.sp → u.stack = t.stack →
    ∃ v, exec .ret u = .next v ∧ v.pc = s.pc + 2#16 ∧ v.sp = s.sp

/-- R134: JP V0, NNN jumps to NNN + V0 on a core with EXT_STD, and is unsupported on one without. -/
def Obligations.JpV0Jumps : Prop :=
  ReadsAs true 0xF000#16 0xB000#16 (fun w => .jpV0 (fieldNNN w)) ∧
  UnsupportedAs 0xF000#16 0xB000#16 ∧
  (∀ (nnn : Addr) (s : State), s.cfg.extStd = true → ∃ t, exec (.jpV0 nnn) s = .next t ∧
    t.pc.toNat = nnn.toNat + (s.getV 0x0#4).toNat ∧ t.pc.toNat ≤ 0x10FE ∧
    (0xFFF ≤ t.pc.toNat → t.fetch = .error (.fetchRange t.pc)) ∧ SameBut {} s t) ∧
  (∀ (nnn : Addr) (s : State), s.cfg.extStd = false →
    exec (.jpV0 nnn) s = .fault (.unsupportedOpcode s.op))

/-- R135, R136: the skips on a byte. -/
def Obligations.SkipOnByte : Prop :=
  (∀ ext, ReadsAs ext 0xF000#16 0x3000#16 (fun w => .seImm (fieldX w) (fieldNN w))) ∧
  (∀ ext, ReadsAs ext 0xF000#16 0x4000#16 (fun w => .sneImm (fieldX w) (fieldNN w))) ∧
  (∀ (x : Nibble) (nn : Byte) (s : State), ∃ t, exec (.seImm x nn) s = .next t ∧
    t.pc = (if s.getV x = nn then s.pc + 4#16 else s.pc + 2#16) ∧ SameBut {} s t) ∧
  (∀ (x : Nibble) (nn : Byte) (s : State), ∃ t, exec (.sneImm x nn) s = .next t ∧
    t.pc = (if s.getV x ≠ nn then s.pc + 4#16 else s.pc + 2#16) ∧ SameBut {} s t)

/-- R137, R138: the skips on two registers; bits 3:0 of the word are ignored. -/
def Obligations.SkipOnRegisters : Prop :=
  (∀ ext, ReadsAs ext 0xF000#16 0x5000#16 (fun w => .seReg (fieldX w) (fieldY w))) ∧
  (∀ ext, ReadsAs ext 0xF000#16 0x9000#16 (fun w => .sneReg (fieldX w) (fieldY w))) ∧
  (∀ (x y : Nibble) (s : State), ∃ t, exec (.seReg x y) s = .next t ∧
    t.pc = (if s.getV x = s.getV y then s.pc + 4#16 else s.pc + 2#16) ∧ SameBut {} s t) ∧
  (∀ (x y : Nibble) (s : State), ∃ t, exec (.sneReg x y) s = .next t ∧
    t.pc = (if s.getV x ≠ s.getV y then s.pc + 4#16 else s.pc + 2#16) ∧ SameBut {} s t)

/-! ### Registers and ALU -/

/-- R161, R162: LD and ADD of a byte; the sum is modulo 256 and no flag is written. -/
def Obligations.LoadAndAddByte : Prop :=
  (∀ ext, ReadsAs ext 0xF000#16 0x6000#16 (fun w => .ldImm (fieldX w) (fieldNN w))) ∧
  (∀ ext, ReadsAs ext 0xF000#16 0x7000#16 (fun w => .addImm (fieldX w) (fieldNN w))) ∧
  (∀ (x : Nibble) (nn : Byte) (s : State), ∃ t, exec (.ldImm x nn) s = .next t ∧
    t.getV x = nn ∧ t.pc = s.pc + 2#16 ∧ SameBut { v := fun r => r == x } s t) ∧
  (∀ (x : Nibble) (nn : Byte) (s : State), ∃ t, exec (.addImm x nn) s = .next t ∧
    (t.getV x).toNat = ((s.getV x).toNat + nn.toNat) % 256 ∧ t.pc = s.pc + 2#16 ∧
    SameBut { v := fun r => r == x } s t)

/-- R163, R164, R165, R166: LD, OR, AND and XOR of two registers, bit by bit, with no flag; OR and XOR only
on a core with EXT_STD. -/
def Obligations.LogicOfRegisters : Prop :=
  (∀ ext, ReadsAs ext 0xF00F#16 0x8000#16 (fun w => .ldReg (fieldX w) (fieldY w))) ∧
  (∀ ext, ReadsAs ext 0xF00F#16 0x8002#16 (fun w => .andReg (fieldX w) (fieldY w))) ∧
  ReadsAs true 0xF00F#16 0x8001#16 (fun w => .orReg (fieldX w) (fieldY w)) ∧
  ReadsAs true 0xF00F#16 0x8003#16 (fun w => .xorReg (fieldX w) (fieldY w)) ∧
  UnsupportedAs 0xF00F#16 0x8001#16 ∧ UnsupportedAs 0xF00F#16 0x8003#16 ∧
  (∀ (x y : Nibble) (s : State), ∃ t, exec (.ldReg x y) s = .next t ∧
    t.getV x = s.getV y ∧ t.pc = s.pc + 2#16 ∧ SameBut { v := fun r => r == x } s t) ∧
  (∀ (x y : Nibble) (s : State), ∃ t, exec (.andReg x y) s = .next t ∧
    (∀ b, (t.getV x).getLsbD b = ((s.getV x).getLsbD b && (s.getV y).getLsbD b)) ∧
    t.pc = s.pc + 2#16 ∧ SameBut { v := fun r => r == x } s t) ∧
  (∀ (x y : Nibble) (s : State), s.cfg.extStd = true → ∃ t, exec (.orReg x y) s = .next t ∧
    (∀ b, (t.getV x).getLsbD b = ((s.getV x).getLsbD b || (s.getV y).getLsbD b)) ∧
    t.pc = s.pc + 2#16 ∧ SameBut { v := fun r => r == x } s t) ∧
  (∀ (x y : Nibble) (s : State), s.cfg.extStd = true → ∃ t, exec (.xorReg x y) s = .next t ∧
    (∀ b, (t.getV x).getLsbD b = ((s.getV x).getLsbD b ^^ (s.getV y).getLsbD b)) ∧
    t.pc = s.pc + 2#16 ∧ SameBut { v := fun r => r == x } s t) ∧
  (∀ (x y : Nibble) (s : State), s.cfg.extStd = false →
    exec (.orReg x y) s = .fault (.unsupportedOpcode s.op) ∧
    exec (.xorReg x y) s = .fault (.unsupportedOpcode s.op))

/-- R167: ADD Vx, Vy; VF is the carry, and with X = 0xF it ends as the carry. -/
def Obligations.AddCarries : Prop :=
  (∀ ext, ReadsAs ext 0xF00F#16 0x8004#16 (fun w => .addReg (fieldX w) (fieldY w))) ∧
  (∀ (x y : Nibble) (s : State), ∃ t, exec (.addReg x y) s = .next t ∧
    (t.getV 0xF#4).toNat = (if 256 ≤ (s.getV x).toNat + (s.getV y).toNat then 1 else 0) ∧
    (x ≠ 0xF#4 → (t.getV x).toNat = ((s.getV x).toNat + (s.getV y).toNat) % 256) ∧
    t.pc = s.pc + 2#16 ∧ SameBut { v := fun r => r == x || r == 0xF#4 } s t)

/-- R168: SUB Vx, Vy; VF is 0 on a borrow and else 1. -/
def Obligations.SubBorrows : Prop :=
  (∀ ext, ReadsAs ext 0xF00F#16 0x8005#16 (fun w => .subReg (fieldX w) (fieldY w))) ∧
  (∀ (x y : Nibble) (s : State), ∃ t, exec (.subReg x y) s = .next t ∧
    (t.getV 0xF#4).toNat = (if (s.getV x).toNat < (s.getV y).toNat then 0 else 1) ∧
    (x ≠ 0xF#4 → (t.getV x).toNat = ((s.getV x).toNat + 256 - (s.getV y).toNat) % 256) ∧
    t.pc = s.pc + 2#16 ∧ SameBut { v := fun r => r == x || r == 0xF#4 } s t)

/-- R170: SUBN Vx, Vy subtracts the other way, on a core with EXT_STD. -/
def Obligations.SubnBorrows : Prop :=
  ReadsAs true 0xF00F#16 0x8007#16 (fun w => .subnReg (fieldX w) (fieldY w)) ∧
  UnsupportedAs 0xF00F#16 0x8007#16 ∧
  (∀ (x y : Nibble) (s : State), s.cfg.extStd = true → ∃ t, exec (.subnReg x y) s = .next t ∧
    (t.getV 0xF#4).toNat = (if (s.getV y).toNat < (s.getV x).toNat then 0 else 1) ∧
    (x ≠ 0xF#4 → (t.getV x).toNat = ((s.getV y).toNat + 256 - (s.getV x).toNat) % 256) ∧
    t.pc = s.pc + 2#16 ∧ SameBut { v := fun r => r == x || r == 0xF#4 } s t) ∧
  (∀ (x y : Nibble) (s : State), s.cfg.extStd = false →
    exec (.subnReg x y) s = .fault (.unsupportedOpcode s.op))

/-- R169, R171: SHR and SHL by one; VF is the bit shifted out, and Y of the word is ignored. -/
def Obligations.ShiftsByOne : Prop :=
  ReadsAs true 0xF00F#16 0x8006#16 (fun w => .shr (fieldX w)) ∧
  ReadsAs true 0xF00F#16 0x800E#16 (fun w => .shl (fieldX w)) ∧
  UnsupportedAs 0xF00F#16 0x8006#16 ∧ UnsupportedAs 0xF00F#16 0x800E#16 ∧
  (∀ (x : Nibble) (s : State), s.cfg.extStd = true → ∃ t, exec (.shr x) s = .next t ∧
    (t.getV 0xF#4).toNat = (s.getV x).toNat % 2 ∧
    (x ≠ 0xF#4 → (t.getV x).toNat = (s.getV x).toNat / 2) ∧
    t.pc = s.pc + 2#16 ∧ SameBut { v := fun r => r == x || r == 0xF#4 } s t) ∧
  (∀ (x : Nibble) (s : State), s.cfg.extStd = true → ∃ t, exec (.shl x) s = .next t ∧
    (t.getV 0xF#4).toNat = (s.getV x).toNat / 128 ∧
    (x ≠ 0xF#4 → (t.getV x).toNat = (s.getV x).toNat * 2 % 256) ∧
    t.pc = s.pc + 2#16 ∧ SameBut { v := fun r => r == x || r == 0xF#4 } s t) ∧
  (∀ (x : Nibble) (s : State), s.cfg.extStd = false →
    exec (.shr x) s = .fault (.unsupportedOpcode s.op) ∧
    exec (.shl x) s = .fault (.unsupportedOpcode s.op))

/-- R172: RND Vx, NN stores the Cycle's random byte AND NN. `s.rnd` is a free value (log entry 4), so this
holds for every value of it. -/
def Obligations.RandomMasked : Prop :=
  (∀ ext, ReadsAs ext 0xF000#16 0xC000#16 (fun w => .rnd (fieldX w) (fieldNN w))) ∧
  (∀ (x : Nibble) (nn : Byte) (s : State), ∃ t, exec (.rnd x nn) s = .next t ∧
    (∀ b, (t.getV x).getLsbD b = (s.rnd.getLsbD b && nn.getLsbD b)) ∧
    t.pc = s.pc + 2#16 ∧ SameBut { v := fun r => r == x } s t)

/-! ### Index register and memory -/

/-- R200, R201, R202: the writers of I; ADD I, Vx wraps at 2^16 and only on a core with EXT_STD, LD F, Vx
uses the whole byte. -/
def Obligations.IndexWrites : Prop :=
  (∀ ext, ReadsAs ext 0xF000#16 0xA000#16 (fun w => .ldI (fieldNNN w))) ∧
  (∀ ext, ReadsAs ext 0xF0FF#16 0xF029#16 (fun w => .ldF (fieldX w))) ∧
  ReadsAs true 0xF0FF#16 0xF01E#16 (fun w => .addI (fieldX w)) ∧
  UnsupportedAs 0xF0FF#16 0xF01E#16 ∧
  (∀ (nnn : Addr) (s : State), ∃ t, exec (.ldI nnn) s = .next t ∧
    t.i.toNat = nnn.toNat ∧ t.pc = s.pc + 2#16 ∧ SameBut { i := true } s t) ∧
  (∀ (x : Nibble) (s : State), ∃ t, exec (.ldF x) s = .next t ∧
    t.i.toNat = (s.getV x).toNat * 5 ∧ t.pc = s.pc + 2#16 ∧ SameBut { i := true } s t) ∧
  (∀ (x : Nibble) (s : State), s.cfg.extStd = true → ∃ t, exec (.addI x) s = .next t ∧
    t.i.toNat = (s.i.toNat + (s.getV x).toNat) % 65536 ∧ t.pc = s.pc + 2#16 ∧
    SameBut { i := true } s t) ∧
  (∀ (x : Nibble) (s : State), s.cfg.extStd = false →
    exec (.addI x) s = .fault (.unsupportedOpcode s.op))

/-- R203: LD B, Vx stores the three decimal digits at I, I+1, I+2 and nothing else, or raises MEM_RANGE. -/
def Obligations.BcdStored : Prop :=
  (∀ ext, ReadsAs ext 0xF0FF#16 0xF033#16 (fun w => .ldB (fieldX w))) ∧
  (∀ (x : Nibble) (s : State), s.i.toNat + 2 ≤ 0xFFF → ∃ t, exec (.ldB x) s = .next t ∧
    (t.readByte s.i.toNat).toNat = (s.getV x).toNat / 100 ∧
    (t.readByte (s.i.toNat + 1)).toNat = (s.getV x).toNat / 10 % 10 ∧
    (t.readByte (s.i.toNat + 2)).toNat = (s.getV x).toNat % 10 ∧
    t.pc = s.pc + 2#16 ∧
    SameBut { mem := fun a => decide (s.i.toNat ≤ a ∧ a ≤ s.i.toNat + 2) } s t) ∧
  (∀ (x : Nibble) (s : State), 0xFFF < s.i.toNat + 2 →
    exec (.ldB x) s = .fault (.memRange s.op (max s.i.toNat 0x1000)))

/-- R204: LD [I], Vx stores V0 to Vx at I to I+X and nothing else, or raises MEM_RANGE; only on a core with
EXT_STD. -/
def Obligations.RegistersStored : Prop :=
  ReadsAs true 0xF0FF#16 0xF055#16 (fun w => .ldMemVx (fieldX w)) ∧
  UnsupportedAs 0xF0FF#16 0xF055#16 ∧
  (∀ (x : Nibble) (s : State), s.cfg.extStd = true → s.i.toNat + x.toNat ≤ 0xFFF →
    ∃ t, exec (.ldMemVx x) s = .next t ∧
      (∀ k : Nibble, k.toNat ≤ x.toNat → t.readByte (s.i.toNat + k.toNat) = s.getV k) ∧
      t.pc = s.pc + 2#16 ∧
      SameBut { mem := fun a => decide (s.i.toNat ≤ a ∧ a ≤ s.i.toNat + x.toNat) } s t) ∧
  (∀ (x : Nibble) (s : State), s.cfg.extStd = true → 0xFFF < s.i.toNat + x.toNat →
    exec (.ldMemVx x) s = .fault (.memRange s.op (max s.i.toNat 0x1000))) ∧
  (∀ (x : Nibble) (s : State), s.cfg.extStd = false →
    exec (.ldMemVx x) s = .fault (.unsupportedOpcode s.op))

/-- R205: LD Vx, [I] loads V0 to Vx from I to I+X and leaves I, or raises MEM_RANGE. -/
def Obligations.RegistersLoaded : Prop :=
  (∀ ext, ReadsAs ext 0xF0FF#16 0xF065#16 (fun w => .ldVxMem (fieldX w))) ∧
  (∀ (x : Nibble) (s : State), s.i.toNat + x.toNat ≤ 0xFFF → ∃ t, exec (.ldVxMem x) s = .next t ∧
    (∀ k : Nibble, k.toNat ≤ x.toNat → t.getV k = s.readByte (s.i.toNat + k.toNat)) ∧
    t.pc = s.pc + 2#16 ∧ SameBut { v := fun r => decide (r.toNat ≤ x.toNat) } s t) ∧
  (∀ (x : Nibble) (s : State), 0xFFF < s.i.toNat + x.toNat →
    exec (.ldVxMem x) s = .fault (.memRange s.op (max s.i.toNat 0x1000)))

/-- R64, R276: the whole range through I is checked first. If it leaves RAM the fault is MEM_RANGE with its
first address at or above 0x1000, and no register, byte, cell or pc is written; if it does not, the
instruction never raises MEM_RANGE. -/
def Obligations.WholeRangeChecked : Prop :=
  (∀ (i : Instr) (s : State) (len : Nat), rangeLen i = some len → 0 < len →
    (i.isExt = true → s.cfg.extStd = true) → 0xFFF < s.i.toNat + len - 1 →
    ∃ j, exec i s = .fault (.memRange s.op j) ∧ s.i.toNat ≤ j ∧ j ≤ s.i.toNat + len - 1 ∧ 0x1000 ≤ j ∧
      ∀ a, s.i.toNat ≤ a → a < j → a < 0x1000) ∧
  (∀ (i : Instr) (s : State) (len : Nat), rangeLen i = some len →
    (len = 0 ∨ s.i.toNat + len - 1 ≤ 0xFFF) → ∀ w j, exec i s ≠ .fault (.memRange w j)) ∧
  (∀ (s : State) (w : Word) (j : Nat), cycle s = .fault (.memRange w j) →
    faulted s = { s with op := (faulted s).op, events := [], slot := (faulted s).slot })

/-- R75, R332: a store is seen by every later fetch. In every state whose memory reads as the store left it,
wherever a fetch can start, the fetched word is made of the bytes stored and, outside them, of those before. -/
def Obligations.StoreThenFetch : Prop :=
  (∀ (x : Nibble) (s t u : State), exec (.ldB x) s = .next t → (∀ a, u.readByte a = t.readByte a) →
    u.pc.toNat < 0xFFF →
    let new (a : Nat) : Nat :=
      if a = s.i.toNat then (s.getV x).toNat / 100
      else if a = s.i.toNat + 1 then (s.getV x).toNat / 10 % 10
      else if a = s.i.toNat + 2 then (s.getV x).toNat % 10
      else (s.readByte a).toNat
    ∃ w, u.fetch = .ok w ∧ w.toNat = new u.pc.toNat * 256 + new (u.pc.toNat + 1)) ∧
  (∀ (x : Nibble) (s t u : State), exec (.ldMemVx x) s = .next t → (∀ a, u.readByte a = t.readByte a) →
    u.pc.toNat < 0xFFF →
    let new (a : Nat) : Nat :=
      if s.i.toNat ≤ a ∧ a ≤ s.i.toNat + x.toNat then (s.getV (BitVec.ofNat 4 (a - s.i.toNat))).toNat
      else (s.readByte a).toNat
    ∃ w, u.fetch = .ok w ∧ w.toNat = new u.pc.toNat * 256 + new (u.pc.toNat + 1))

/-! ### Display -/

/-- R230: CLS clears every cell, keeps VF and emits nothing. -/
def Obligations.ClsClears : Prop :=
  (∀ ext, ReadsAs ext 0xF0FF#16 0x00E0#16 (fun _ => .cls)) ∧
  (∀ s : State, ∃ t, exec .cls s = .next t ∧ (∀ j, j < 2048 → t.gfx.cell j = false) ∧
    t.pc = s.pc + 2#16 ∧ SameBut { gfx := fun _ => True } s t)

/-- R233: DRW flips exactly the cells that a set sprite bit falls on, VF is 1 if one of them was lit and
else 0, one Draw is emitted; MEM_RANGE if the rows leave RAM, and DRAW_RANGE only under LINEAR. -/
def Obligations.DrwDraws : Prop :=
  (∀ ext, ReadsAs ext 0xF000#16 0xD000#16 (fun w => .drw (fieldX w) (fieldY w) (fieldN w))) ∧
  (∀ (x y n : Nibble) (s : State), (n ≠ 0x0#4 → s.i.toNat + n.toNat - 1 ≤ 0xFFF) →
    (s.cfg.drawPolicy = .linear → ∀ j, s.Covers x y n j → j < 2048) →
    ∃ t, exec (.drw x y n) s = .next t ∧
      (∀ j, j < 2048 → (s.Covers x y n j → t.gfx.cell j = !s.gfx.cell j) ∧
        (¬ s.Covers x y n j → t.gfx.cell j = s.gfx.cell j)) ∧
      ((∃ j, s.Covers x y n j ∧ s.gfx.cell j = true) → t.getV 0xF#4 = 0x01#8) ∧
      ((∀ j, s.Covers x y n j → s.gfx.cell j = false) → t.getV 0xF#4 = 0x00#8) ∧
      t.events = s.events ++ [.draw] ∧ t.pc = s.pc + 2#16 ∧
      SameBut { v := fun r => r == 0xF#4, gfx := s.Covers x y n, events := true } s t) ∧
  (∀ (x y n : Nibble) (s : State), n ≠ 0x0#4 → 0xFFF < s.i.toNat + n.toNat - 1 →
    exec (.drw x y n) s = .fault (.memRange s.op (max s.i.toNat 0x1000))) ∧
  (∀ (x y n : Nibble) (s : State), (n ≠ 0x0#4 → s.i.toNat + n.toNat - 1 ≤ 0xFFF) →
    s.cfg.drawPolicy = .linear → (∃ j, s.Covers x y n j ∧ 2048 ≤ j) →
    ∃ j, exec (.drw x y n) s = .fault (.drawRange s.op j))

/-- R232: under LINEAR, DRAW_RANGE carries the first index of 2048 or more in row-major order of the set
bits, and the faulting Cycle writes neither VF, Gfx nor pc; under WRAP it never occurs. -/
def Obligations.LinearRangeFault : Prop :=
  (∀ (x y n : Nibble) (s : State) (r c : Nat), s.cfg.drawPolicy = .linear →
    (n ≠ 0x0#4 → s.i.toNat + n.toNat - 1 ≤ 0xFFF) → r < n.toNat → c < 8 →
    s.spriteBit r c = true → 2048 ≤ s.pixelAt x y r c →
    (∀ r' c', c' < 8 → (r' < r ∨ (r' = r ∧ c' < c)) → s.spriteBit r' c' = true →
      s.pixelAt x y r' c' < 2048) →
    exec (.drw x y n) s = .fault (.drawRange s.op (s.pixelAt x y r c))) ∧
  (∀ (s : State) (w : Word) (j : Nat), cycle s = .fault (.drawRange w j) →
    (faulted s).v = s.v ∧ (faulted s).gfx = s.gfx ∧ (faulted s).pc = s.pc) ∧
  (∀ (i : Instr) (s : State) (w : Word) (j : Nat), s.cfg.drawPolicy = .wrap →
    exec i s ≠ .fault (.drawRange w j))

/-- R236: DRW with N = 0 reads no memory, whatever I is, clears VF, changes no cell and emits Draw. -/
def Obligations.DrwNoRows : Prop :=
  ∀ (x y : Nibble) (s : State), ∃ t, exec (.drw x y 0x0#4) s = .next t ∧ t.getV 0xF#4 = 0x00#8 ∧
    t.events = s.events ++ [.draw] ∧ t.pc = s.pc + 2#16 ∧
    SameBut { v := fun r => r == 0xF#4, events := true } s t

/-- R235: distinct bits of one sprite fall on distinct cells, under both policies. -/
def Obligations.SpriteBitsDistinct : Prop :=
  ∀ (p : DrawPolicy) (x y r r' c c' : Nat), r < 15 → r' < 15 → c < 8 → c' < 8 →
    pixAddr p (x + c) (y + r) = pixAddr p (x + c') (y + r') → r = r' ∧ c = c'

/-- R234: a DXYN that completes emits one Draw, and no other instruction emits any event. -/
def Obligations.OnlyDrwEmitsDraw : Prop :=
  ∀ (i : Instr) (s t : State), exec i s = .next t →
    t.events = s.events ++ (if isDrw i then [.draw] else [])

/-- R233, R235: drawing a sprite twice at the same coordinates leaves the framebuffer as it was, where
neither coordinate is read from VF. -/
def Obligations.DrawTwiceRestores : Prop :=
  ∀ (x y n : Nibble) (s t u : State), x ≠ 0xF#4 → y ≠ 0xF#4 →
    exec (.drw x y n) s = .next t → exec (.drw x y n) t = .next u →
    ∀ j, j < 2048 → u.gfx.cell j = s.gfx.cell j

/-! ### Keys and timers -/

/-- R250, R251, R256, R277: the skips on a key; an index above 0xF raises KEY_RANGE and is not masked; SKP
only on a core with EXT_STD. -/
def Obligations.KeySkips : Prop :=
  (∀ ext, ReadsAs ext 0xF0FF#16 0xE0A1#16 (fun w => .sknp (fieldX w))) ∧
  ReadsAs true 0xF0FF#16 0xE09E#16 (fun w => .skp (fieldX w)) ∧
  UnsupportedAs 0xF0FF#16 0xE09E#16 ∧
  (∀ (x : Nibble) (k : Fin 16) (s : State), (s.getV x).toNat = k.val →
    ∃ t, exec (.sknp x) s = .next t ∧
      t.pc = (if s.key[k] = 0x00#8 then s.pc + 4#16 else s.pc + 2#16) ∧ SameBut {} s t) ∧
  (∀ (x : Nibble) (k : Fin 16) (s : State), s.cfg.extStd = true → (s.getV x).toNat = k.val →
    ∃ t, exec (.skp x) s = .next t ∧
      t.pc = (if s.key[k] ≠ 0x00#8 then s.pc + 4#16 else s.pc + 2#16) ∧ SameBut {} s t) ∧
  (∀ (x : Nibble) (s : State), 0xF < (s.getV x).toNat →
    exec (.sknp x) s = .fault (.keyRange s.op (s.getV x)) ∧
    (s.cfg.extStd = true → exec (.skp x) s = .fault (.keyRange s.op (s.getV x)))) ∧
  (∀ (x : Nibble) (s : State), s.cfg.extStd = false →
    exec (.skp x) s = .fault (.unsupportedOpcode s.op))

/-- R253: LD Vx, K takes the least pressed key; while none is pressed its Cycle completes, writes nothing but
the timer service and leaves pc; only on a core with EXT_STD. -/
def Obligations.KeyWait : Prop :=
  ReadsAs true 0xF0FF#16 0xF00A#16 (fun w => .ldVxK (fieldX w)) ∧
  UnsupportedAs 0xF0FF#16 0xF00A#16 ∧
  (∀ (x : Nibble) (k : Fin 16) (s : State), s.cfg.extStd = true → s.key[k] ≠ 0x00#8 →
    (∀ q : Fin 16, q < k → s.key[q] = 0x00#8) →
    ∃ t, exec (.ldVxK x) s = .next t ∧ (t.getV x).toNat = k.val ∧ t.pc = s.pc + 2#16 ∧
      SameBut { v := fun r => r == x } s t) ∧
  (∀ (x : Nibble) (s : State), s.cfg.extStd = true → (∀ q : Fin 16, s.key[q] = 0x00#8) →
    exec (.ldVxK x) s = .next s) ∧
  (∀ (x : Nibble) (s : State) (w : Word), s.fetch = .ok w → decode s.cfg.extStd w = .ok (.ldVxK x) →
    (∀ q : Fin 16, s.key[q] = 0x00#8) →
    ∃ t, cycle s = .next t ∧ t = (s.beginCycle.setOp w).service ∧ t.pc = s.pc) ∧
  (∀ (x : Nibble) (s : State), s.cfg.extStd = false →
    exec (.ldVxK x) s = .fault (.unsupportedOpcode s.op))

/-- R252, R254, R255: the moves between a register and a timer, as instructions. -/
def Obligations.TimerMoves : Prop :=
  (∀ ext, ReadsAs ext 0xF0FF#16 0xF007#16 (fun w => .ldVxDt (fieldX w))) ∧
  (∀ ext, ReadsAs ext 0xF0FF#16 0xF015#16 (fun w => .ldDtVx (fieldX w))) ∧
  (∀ ext, ReadsAs ext 0xF0FF#16 0xF018#16 (fun w => .ldStVx (fieldX w))) ∧
  (∀ (x : Nibble) (s : State), ∃ t, exec (.ldVxDt x) s = .next t ∧ t.getV x = s.dt ∧
    t.pc = s.pc + 2#16 ∧ SameBut { v := fun r => r == x } s t) ∧
  (∀ (x : Nibble) (s : State), ∃ t, exec (.ldDtVx x) s = .next t ∧ t.dt = s.getV x ∧
    t.pc = s.pc + 2#16 ∧ SameBut { dt := true } s t) ∧
  (∀ (x : Nibble) (s : State), ∃ t, exec (.ldStVx x) s = .next t ∧ t.st = s.getV x ∧
    t.pc = s.pc + 2#16 ∧ SameBut { st := true } s t)

/-- R252, R254, R255, R331: a timer is read before and written before the service of the same Cycle; a
write of ST emits no Beep of its own. -/
def Obligations.TimerServicedAfterWrite : Prop :=
  (∀ (x : Nibble) (s : State) (w : Word), s.fetch = .ok w →
    decode s.cfg.extStd w = .ok (.ldVxDt x) → ∃ t, cycle s = .next t ∧ t.getV x = s.dt) ∧
  (∀ (x : Nibble) (s : State) (w : Word), s.fetch = .ok w →
    decode s.cfg.extStd w = .ok (.ldDtVx x) → ∃ t, cycle s = .next t ∧
      t.dt.toNat = (s.getV x).toNat - (if s.tp then 1 else 0)) ∧
  (∀ (x : Nibble) (s : State) (w : Word), s.fetch = .ok w →
    decode s.cfg.extStd w = .ok (.ldStVx x) → ∃ t, cycle s = .next t ∧
      t.st.toNat = (s.getV x).toNat - (if s.tp then 1 else 0) ∧
      t.events = (if s.tp = true ∧ (s.getV x).toNat = 1 then [.beep] else []))

/-- R281, R282, R283: the service point acts only where TP is set; it clears TP, lowers each timer by one
with a floor at zero, emits one Beep exactly where it takes ST from 1 to 0, and writes nothing else. -/
def Obligations.ServicePoint : Prop :=
  (∀ s : State, s.tp = false → s.service = s) ∧
  (∀ s : State, s.tp = true →
    s.service.tp = false ∧ s.service.dt.toNat = s.dt.toNat - 1 ∧
    s.service.st.toNat = s.st.toNat - 1 ∧
    s.service.events = s.events ++ (if s.st.toNat = 1 then [.beep] else []) ∧
    s.service = { s with
      tp := false
      dt := s.service.dt
      st := s.service.st
      events := s.service.events }) ∧
  (∀ (s t : State) (w : Word) (i : Instr), s.fetch = .ok w → decode s.cfg.extStd w = .ok i →
    exec i (s.beginCycle.setOp w) = .next t → cycle s = .next t.service)

/-- R290, R291: the events of a Cycle are at most one Draw, from DXYN, and then at most one Beep, from the
service point. -/
def Obligations.EventsOfCycle : Prop :=
  ∀ s t : State, cycle s = .next t → ∃ w i u, s.fetch = .ok w ∧ decode s.cfg.extStd w = .ok i ∧
    exec i (s.beginCycle.setOp w) = .next u ∧
    t.events = (if isDrw i then [.draw] else []) ++
      (if s.tp = true ∧ u.st.toNat = 1 then [.beep] else []) ∧
    move .cycle s = (t, .ok t.events)

/-- R281, R282, R296: over Cycles none of which writes DT, DT falls by one for each Cycle before which the
Ticker fired, down to zero, however many Cycles come between. -/
def Obligations.DelayCountsTicks : Prop :=
  ∀ (bs : List Bool) (s t : State), s.tp = false → runTicks bs s = some t →
    t.tp = false ∧ t.dt.toNat = s.dt.toNat - bs.count true

/-- R34, R280: firings between two service points count as one, and a firing changes nothing but TP. -/
def Obligations.TicksCoalesce : Prop :=
  ∀ s : State, s.tick.tick = s.tick ∧ s.tick = { s with tp := true } ∧
    tickerTurn s.tick = { s.tick with ticks := s.ticks.tail }

/-! ### Faults -/

/-- R270, R284: a faulting Cycle writes nothing but OP, and OP only with a fetched word; TP, the timers and
pc are kept and no event is returned. `slot` is the model's own (log entry 6). -/
def Obligations.FaultsArePrecise : Prop :=
  ∀ (s : State) (f : Fault), cycle s = .fault f →
    ∃ t, move .cycle s = (t, .fault f) ∧
      t = { s with op := t.op, events := [], slot := t.slot } ∧
      (∀ w, s.fetch = .ok w → t.op = w) ∧ (0xFFF ≤ s.pc.toNat → t.op = s.op)

/-- R287: a Cycle after a faulting Cycle, with nothing between, raises the same fault. -/
def Obligations.FaultRepeats : Prop :=
  ∀ (s t : State) (f : Fault), move .cycle s = (t, .fault f) →
    ∃ u, move .cycle t = (u, .fault f)

/-- R271, R279: which fault each instruction may raise, with its record and its condition; every other never
faults. -/
def Obligations.FaultsOfInstructions : Prop :=
  ∀ (i : Instr) (s : State) (f : Fault), exec i s = .fault f → MayRaise s f i

/-- R104: no instruction and no step is refused: every word is an instruction or one of the two opcode
faults. -/
def Obligations.NothingRefused : Prop :=
  (∀ (i : Instr) (s : State) (r : Refusal), exec i s ≠ .refused r) ∧
    (∀ (s : State) (r : Refusal), step s ≠ .refused r)

/-! ### The host's entry points -/

/-- R324, R325, R326: Load writes the program from 0x200 up and sets LOADED; a second Load is refused, and
then one of more than 3584 bytes, both changing nothing. -/
def Obligations.LoadProgram : Prop :=
  (∀ (s : State) (b : List Byte), s.loaded = true → move (.load b) s = (s, .loadRefused)) ∧
  (∀ (s : State) (b : List Byte), s.loaded = false → 3584 < b.length →
    move (.load b) s = (s, .loadOverflow b.length)) ∧
  (∀ (s : State) (b : List Byte), s.loaded = false → b.length ≤ 3584 →
    ∃ t, move (.load b) s = (t, .loaded) ∧ t = { s with mem := t.mem, loaded := true } ∧
      (∀ k (h : k < b.length), t.readByte (0x200 + k) = b[k]) ∧
      (∀ a, a < 0x200 ∨ 0x200 + b.length ≤ a → t.readByte a = s.readByte a))

/-- R302, R303, R304, R306: PixelSet reads one cell, KeyDown presses one key, KeysClear releases all; an
index out of range is the host error HOST_RANGE and changes nothing. -/
def Obligations.PixelsAndKeys : Prop :=
  (∀ (s : State) (j : Nat), j < 2048 → move (.pixelSet j) s = (s, .pixel (s.gfx.cell j))) ∧
  (∀ (s : State) (j : Nat), 2048 ≤ j → move (.pixelSet j) s = (s, .hostRange)) ∧
  (∀ (s : State) (k : Fin 16), ∃ t, move (.keyDown k.val) s = (t, .none) ∧
    t = { s with key := t.key } ∧
    ∀ q : Fin 16, t.key[q] = if q = k then 0x01#8 else s.key[q]) ∧
  (∀ (s : State) (k : Nat), 16 ≤ k → move (.keyDown k) s = (s, .hostRange)) ∧
  (∀ s : State, ∃ t, move .keysClear s = (t, .none) ∧ t = { s with key := t.key } ∧
    ∀ q : Fin 16, t.key[q] = 0x00#8)

/-! ### Invariants and whole-machine rules -/

/-- R26, R27, R41: the reset state meets the invariant. -/
def Obligations.ResetMeetsInv : Prop := State.reset.Inv

/-- R26, R27, R66: every step keeps the invariant: memory canonical and inside RAM, pc at most 0x10FE, every
return address at most 0xFFE, Stack[0] never written. -/
def Obligations.StepKeepsInv : Prop :=
  ∀ s t : State, s.Inv → step s = .next t → t.Inv

/-- R8, R305, R333: every interleaving of the three agents' moves, faulting Cycles included, keeps the
invariant. -/
def Obligations.MovesKeepInv : Prop :=
  ∀ (ms : List Move) (s : State), s.Inv → (runMoves ms s).1.Inv

/-- R26's bound: after a completed Cycle pc is at most 0x10FE, where every return address is that of a
fetched CALL. -/
def Obligations.PcBounded : Prop :=
  ∀ s t : State, (∀ k : Fin 16, s.stack[k].toNat ≤ 0xFFE) → cycle s = .next t → t.pc.toNat ≤ 0x10FE

/-- R42: an instruction that completes writes the registers, stack entries, bytes and cells that its rules
name and nothing else; Key, OP, TP, LOADED and the configuration are written by none. -/
def Obligations.WritersOfState : Prop :=
  ∀ (i : Instr) (s t : State), exec i s = .next t → SameBut (mayWrite s i) s t

/-- R39: no instruction and no entry point changes the configuration. -/
def Obligations.ConfigurationFixed : Prop :=
  (∀ (i : Instr) (s t : State), exec i s = .next t → t.cfg = s.cfg) ∧
    (∀ s t : State, step s = .next t → t.cfg = s.cfg) ∧
    (∀ (ms : List Move) (s : State), (runMoves ms s).1.cfg = s.cfg)

/-- R31, R34, R38: no instruction reads ST, TP or LOADED: changing them changes nothing else of what it
does. -/
def Obligations.HiddenStateUnread : Prop :=
  ∀ (i : Instr) (s : State) (a : Byte) (b c : Bool),
    exec i { s with st := a, tp := b, loaded := c } =
      onNext (fun t => { t with
        st := (match i with | .ldStVx _ => t.st | _ => a)
        tp := b
        loaded := c }) (exec i s)

/-- R336, R132, R281 to R283: once a program has reached its halt, the next Cycle completes there too,
whether or not the Ticker fired between; the timers count down and a Beep comes as the service point has
it, and nothing else changes. So also over any number of Cycles and any pattern of firings. `slot` is the
model's own (log entry 6). -/
def Obligations.HaltStays : Prop :=
  (∀ (h : Addr) (s t : State) (b : Bool), ReachesHalt h s t →
    ∃ u, ReachesHalt h (if b then t.tick else t) u ∧
      u.dt.toNat = t.dt.toNat - (if b then 1 else 0) ∧
      u.st.toNat = t.st.toNat - (if b then 1 else 0) ∧
      u.events = (if b = true ∧ t.st.toNat = 1 then [.beep] else []) ∧
      u = { t with
        op := wordNNN 0x1#4 h
        tp := false
        dt := u.dt
        st := u.st
        events := u.events
        slot := u.slot }) ∧
  (∀ (h : Addr) (s t : State) (bs : List Bool), ReachesHalt h s t →
    ∃ u, runTicks bs t = some u ∧ u.pc = addrWord h ∧
      u.dt.toNat = t.dt.toNat - bs.count true ∧ u.st.toNat = t.st.toNat - bs.count true ∧
      u = { t with op := u.op, dt := u.dt, st := u.st, events := u.events, slot := u.slot })
end

