-- ==== Sys2Proof/Laws/Memory.lean ====
section
/-! SUPPORT. Memory: a read after a write, and the canonical form that every memory operation keeps. -/

namespace Sys2Proof.Machine

variable (d : Nat → Byte)

theorem Memory.read_put (m : Memory) (a : Nat) (b : Byte) (c : Nat) :
    Memory.read d (Memory.put m a b) c = if c = a then b else Memory.read d m c := by
  induction m with
  | nil => simp [Memory.put, Memory.read, eq_comm]
  | cons e m ih =>
    obtain ⟨k, e⟩ := e
    simp only [Memory.put]
    split
    · simp [Memory.read, eq_comm]
    · split
      · subst_vars
        by_cases hc : c = k <;> simp [Memory.read, hc, eq_comm]
      · by_cases hk : k = c
        · subst hk
          rename_i h1 h2
          have h3 : k ≠ a := fun h => h2 h.symm
          simp [Memory.read, h3]
        · simp [Memory.read, hk, ih]

theorem Memory.read_drop (m : Memory) (a c : Nat) :
    Memory.read d (Memory.drop m a) c = if c = a then d a else Memory.read d m c := by
  induction m with
  | nil => by_cases h : c = a <;> simp [Memory.drop, Memory.read, h]
  | cons e m ih =>
    obtain ⟨k, e⟩ := e
    simp only [Memory.drop]
    split
    · subst_vars
      by_cases hc : c = k
      · rw [ih]; simp [hc]
      · rw [ih]; simp [hc, Memory.read, Ne.symm hc]
    · by_cases hk : k = c
      · subst hk
        rename_i h1
        simp [Memory.read, h1]
      · simp [Memory.read, hk, ih]

/-- A read after a write: the byte written there, every other byte as before. -/
@[simp] theorem Memory.read_write (m : Memory) (a : Nat) (b : Byte) (c : Nat) :
    Memory.read d (Memory.write d m a b) c = if c = a then b else Memory.read d m c := by
  simp only [Memory.write]
  split
  · subst_vars; simp [Memory.read_drop]
  · simp [Memory.read_put]

theorem Memory.mem_put {m : Memory} {a : Nat} {b : Byte} {e : Host.Cell}
    (h : e ∈ Memory.put m a b) : e = (a, b) ∨ e ∈ m := by
  induction m with
  | nil => simpa [Memory.put] using h
  | cons f m ih =>
    obtain ⟨k, c⟩ := f
    simp only [Memory.put] at h
    split at h
    · simpa using h
    · split at h
      · simp only [List.mem_cons] at h ⊢; tauto
      · simp only [List.mem_cons] at h ⊢
        rcases h with h | h
        · tauto
        · rcases ih h with h | h <;> tauto

theorem Memory.mem_drop {m : Memory} {a : Nat} {e : Host.Cell}
    (h : e ∈ Memory.drop m a) : e ∈ m := by
  induction m with
  | nil => simp [Memory.drop] at h
  | cons f m ih =>
    obtain ⟨k, c⟩ := f
    simp only [Memory.drop] at h
    split at h
    · exact List.mem_cons_of_mem _ (ih h)
    · simp only [List.mem_cons] at h ⊢
      rcases h with h | h
      · exact .inl h
      · exact .inr (ih h)

/-- What a written memory lists: the written entry, or one it listed before. -/
theorem Memory.mem_write {m : Memory} {a : Nat} {b : Byte} {e : Host.Cell}
    (h : e ∈ Memory.write d m a b) : e = (a, b) ∨ e ∈ m := by
  simp only [Memory.write] at h
  split at h
  · exact .inr (Memory.mem_drop h)
  · exact Memory.mem_put h

theorem Memory.put_rising {m : Memory} {a : Nat} {b : Byte}
    (h : m.Pairwise (fun c c' => c.1 < c'.1)) :
    (Memory.put m a b).Pairwise (fun c c' => c.1 < c'.1) := by
  induction m with
  | nil => simp [Memory.put]
  | cons f m ih =>
    obtain ⟨k, c⟩ := f
    rw [List.pairwise_cons] at h
    simp only [Memory.put]
    split
    · rename_i hlt
      refine List.pairwise_cons.2 ⟨?_, List.pairwise_cons.2 h⟩
      intro e he
      rcases List.mem_cons.1 he with rfl | he
      · exact hlt
      · exact lt_trans hlt (h.1 e he)
    · split
      · subst_vars
        exact List.pairwise_cons.2 ⟨h.1, h.2⟩
      · refine List.pairwise_cons.2 ⟨?_, ih h.2⟩
        intro e he
        rcases Memory.mem_put he with rfl | he
        · simp only; omega
        · exact h.1 e he

theorem Memory.drop_rising {m : Memory} {a : Nat}
    (h : m.Pairwise (fun c c' => c.1 < c'.1)) :
    (Memory.drop m a).Pairwise (fun c c' => c.1 < c'.1) := by
  induction m with
  | nil => simp [Memory.drop]
  | cons f m ih =>
    obtain ⟨k, c⟩ := f
    rw [List.pairwise_cons] at h
    simp only [Memory.drop]
    split
    · exact ih h.2
    · exact List.pairwise_cons.2 ⟨fun e he => h.1 e (Memory.mem_drop he), ih h.2⟩

/-- A write keeps the canonical form. -/
theorem Memory.write_wf {m : Memory} {a : Nat} {b : Byte} (h : Memory.wf d m) :
    Memory.wf d (Memory.write d m a b) := by
  simp only [Memory.write]
  split
  · exact ⟨Memory.drop_rising h.1, fun e he => h.2 e (Memory.mem_drop he)⟩
  · rename_i hb
    refine ⟨Memory.put_rising h.1, fun e he => ?_⟩
    rcases Memory.mem_put he with rfl | he
    · exact hb
    · exact h.2 e he

/-- Memory with nothing listed is canonical. -/
theorem Memory.nil_wf : Memory.wf d [] := by simp [Memory.wf]

end Sys2Proof.Machine
end

