-- ==== Sys2Proof/Laws/State.lean ====
section
/-! SUPPORT. One lemma for each field of each named update of the state, so that no later proof unfolds a
record update. The updates without a condition hold by `rfl`; the others are taken apart once here. -/

namespace Sys2Proof.Machine

variable (s : State)

/-! #### `setV` -/

@[simp] theorem State.setV_v (x : Nibble) (b : Byte) : (s.setV x b).v = s.v.set x.toNat b := rfl
@[simp] theorem State.setV_i (x : Nibble) (b : Byte) : (s.setV x b).i = s.i := rfl
@[simp] theorem State.setV_pc (x : Nibble) (b : Byte) : (s.setV x b).pc = s.pc := rfl
@[simp] theorem State.setV_stack (x : Nibble) (b : Byte) : (s.setV x b).stack = s.stack := rfl
@[simp] theorem State.setV_sp (x : Nibble) (b : Byte) : (s.setV x b).sp = s.sp := rfl
@[simp] theorem State.setV_dt (x : Nibble) (b : Byte) : (s.setV x b).dt = s.dt := rfl
@[simp] theorem State.setV_st (x : Nibble) (b : Byte) : (s.setV x b).st = s.st := rfl
@[simp] theorem State.setV_mem (x : Nibble) (b : Byte) : (s.setV x b).mem = s.mem := rfl
@[simp] theorem State.setV_gfx (x : Nibble) (b : Byte) : (s.setV x b).gfx = s.gfx := rfl
@[simp] theorem State.setV_key (x : Nibble) (b : Byte) : (s.setV x b).key = s.key := rfl
@[simp] theorem State.setV_op (x : Nibble) (b : Byte) : (s.setV x b).op = s.op := rfl
@[simp] theorem State.setV_tp (x : Nibble) (b : Byte) : (s.setV x b).tp = s.tp := rfl
@[simp] theorem State.setV_loaded (x : Nibble) (b : Byte) : (s.setV x b).loaded = s.loaded := rfl
@[simp] theorem State.setV_cfg (x : Nibble) (b : Byte) : (s.setV x b).cfg = s.cfg := rfl
@[simp] theorem State.setV_events (x : Nibble) (b : Byte) : (s.setV x b).events = s.events := rfl
@[simp] theorem State.setV_slot (x : Nibble) (b : Byte) : (s.setV x b).slot = s.slot := rfl
@[simp] theorem State.setV_ticks (x : Nibble) (b : Byte) : (s.setV x b).ticks = s.ticks := rfl

/-! #### `setI` -/

@[simp] theorem State.setI_v (w : Word) : (s.setI w).v = s.v := rfl
@[simp] theorem State.setI_i (w : Word) : (s.setI w).i = w := rfl
@[simp] theorem State.setI_pc (w : Word) : (s.setI w).pc = s.pc := rfl
@[simp] theorem State.setI_stack (w : Word) : (s.setI w).stack = s.stack := rfl
@[simp] theorem State.setI_sp (w : Word) : (s.setI w).sp = s.sp := rfl
@[simp] theorem State.setI_dt (w : Word) : (s.setI w).dt = s.dt := rfl
@[simp] theorem State.setI_st (w : Word) : (s.setI w).st = s.st := rfl
@[simp] theorem State.setI_mem (w : Word) : (s.setI w).mem = s.mem := rfl
@[simp] theorem State.setI_gfx (w : Word) : (s.setI w).gfx = s.gfx := rfl
@[simp] theorem State.setI_key (w : Word) : (s.setI w).key = s.key := rfl
@[simp] theorem State.setI_op (w : Word) : (s.setI w).op = s.op := rfl
@[simp] theorem State.setI_tp (w : Word) : (s.setI w).tp = s.tp := rfl
@[simp] theorem State.setI_loaded (w : Word) : (s.setI w).loaded = s.loaded := rfl
@[simp] theorem State.setI_cfg (w : Word) : (s.setI w).cfg = s.cfg := rfl
@[simp] theorem State.setI_events (w : Word) : (s.setI w).events = s.events := rfl
@[simp] theorem State.setI_slot (w : Word) : (s.setI w).slot = s.slot := rfl
@[simp] theorem State.setI_ticks (w : Word) : (s.setI w).ticks = s.ticks := rfl

/-! #### `setPc` -/

@[simp] theorem State.setPc_v (w : Word) : (s.setPc w).v = s.v := rfl
@[simp] theorem State.setPc_i (w : Word) : (s.setPc w).i = s.i := rfl
@[simp] theorem State.setPc_pc (w : Word) : (s.setPc w).pc = w := rfl
@[simp] theorem State.setPc_stack (w : Word) : (s.setPc w).stack = s.stack := rfl
@[simp] theorem State.setPc_sp (w : Word) : (s.setPc w).sp = s.sp := rfl
@[simp] theorem State.setPc_dt (w : Word) : (s.setPc w).dt = s.dt := rfl
@[simp] theorem State.setPc_st (w : Word) : (s.setPc w).st = s.st := rfl
@[simp] theorem State.setPc_mem (w : Word) : (s.setPc w).mem = s.mem := rfl
@[simp] theorem State.setPc_gfx (w : Word) : (s.setPc w).gfx = s.gfx := rfl
@[simp] theorem State.setPc_key (w : Word) : (s.setPc w).key = s.key := rfl
@[simp] theorem State.setPc_op (w : Word) : (s.setPc w).op = s.op := rfl
@[simp] theorem State.setPc_tp (w : Word) : (s.setPc w).tp = s.tp := rfl
@[simp] theorem State.setPc_loaded (w : Word) : (s.setPc w).loaded = s.loaded := rfl
@[simp] theorem State.setPc_cfg (w : Word) : (s.setPc w).cfg = s.cfg := rfl
@[simp] theorem State.setPc_events (w : Word) : (s.setPc w).events = s.events := rfl
@[simp] theorem State.setPc_slot (w : Word) : (s.setPc w).slot = s.slot := rfl
@[simp] theorem State.setPc_ticks (w : Word) : (s.setPc w).ticks = s.ticks := rfl

/-! #### `advance` -/

@[simp] theorem State.advance_v : s.advance.v = s.v := rfl
@[simp] theorem State.advance_i : s.advance.i = s.i := rfl
@[simp] theorem State.advance_pc : s.advance.pc = s.pc + 2#16 := rfl
@[simp] theorem State.advance_stack : s.advance.stack = s.stack := rfl
@[simp] theorem State.advance_sp : s.advance.sp = s.sp := rfl
@[simp] theorem State.advance_dt : s.advance.dt = s.dt := rfl
@[simp] theorem State.advance_st : s.advance.st = s.st := rfl
@[simp] theorem State.advance_mem : s.advance.mem = s.mem := rfl
@[simp] theorem State.advance_gfx : s.advance.gfx = s.gfx := rfl
@[simp] theorem State.advance_key : s.advance.key = s.key := rfl
@[simp] theorem State.advance_op : s.advance.op = s.op := rfl
@[simp] theorem State.advance_tp : s.advance.tp = s.tp := rfl
@[simp] theorem State.advance_loaded : s.advance.loaded = s.loaded := rfl
@[simp] theorem State.advance_cfg : s.advance.cfg = s.cfg := rfl
@[simp] theorem State.advance_events : s.advance.events = s.events := rfl
@[simp] theorem State.advance_slot : s.advance.slot = s.slot := rfl
@[simp] theorem State.advance_ticks : s.advance.ticks = s.ticks := rfl

/-! #### `push` -/

@[simp] theorem State.push_v (w : Word) : (s.push w).v = s.v := rfl
@[simp] theorem State.push_i (w : Word) : (s.push w).i = s.i := rfl
@[simp] theorem State.push_pc (w : Word) : (s.push w).pc = s.pc := rfl
@[simp] theorem State.push_stack (w : Word) : (s.push w).stack = s.stack.set (s.sp + 1 : Fin 16).val w := rfl
@[simp] theorem State.push_sp (w : Word) : (s.push w).sp = s.sp + 1 := rfl
@[simp] theorem State.push_dt (w : Word) : (s.push w).dt = s.dt := rfl
@[simp] theorem State.push_st (w : Word) : (s.push w).st = s.st := rfl
@[simp] theorem State.push_mem (w : Word) : (s.push w).mem = s.mem := rfl
@[simp] theorem State.push_gfx (w : Word) : (s.push w).gfx = s.gfx := rfl
@[simp] theorem State.push_key (w : Word) : (s.push w).key = s.key := rfl
@[simp] theorem State.push_op (w : Word) : (s.push w).op = s.op := rfl
@[simp] theorem State.push_tp (w : Word) : (s.push w).tp = s.tp := rfl
@[simp] theorem State.push_loaded (w : Word) : (s.push w).loaded = s.loaded := rfl
@[simp] theorem State.push_cfg (w : Word) : (s.push w).cfg = s.cfg := rfl
@[simp] theorem State.push_events (w : Word) : (s.push w).events = s.events := rfl
@[simp] theorem State.push_slot (w : Word) : (s.push w).slot = s.slot := rfl
@[simp] theorem State.push_ticks (w : Word) : (s.push w).ticks = s.ticks := rfl

/-! #### `pop` -/

@[simp] theorem State.pop_v : s.pop.v = s.v := rfl
@[simp] theorem State.pop_i : s.pop.i = s.i := rfl
@[simp] theorem State.pop_pc : s.pop.pc = s.pc := rfl
@[simp] theorem State.pop_stack : s.pop.stack = s.stack := rfl
@[simp] theorem State.pop_sp : s.pop.sp = s.sp - 1 := rfl
@[simp] theorem State.pop_dt : s.pop.dt = s.dt := rfl
@[simp] theorem State.pop_st : s.pop.st = s.st := rfl
@[simp] theorem State.pop_mem : s.pop.mem = s.mem := rfl
@[simp] theorem State.pop_gfx : s.pop.gfx = s.gfx := rfl
@[simp] theorem State.pop_key : s.pop.key = s.key := rfl
@[simp] theorem State.pop_op : s.pop.op = s.op := rfl
@[simp] theorem State.pop_tp : s.pop.tp = s.tp := rfl
@[simp] theorem State.pop_loaded : s.pop.loaded = s.loaded := rfl
@[simp] theorem State.pop_cfg : s.pop.cfg = s.cfg := rfl
@[simp] theorem State.pop_events : s.pop.events = s.events := rfl
@[simp] theorem State.pop_slot : s.pop.slot = s.slot := rfl
@[simp] theorem State.pop_ticks : s.pop.ticks = s.ticks := rfl

/-! #### `setGfx` -/

@[simp] theorem State.setGfx_v (g : Frame) : (s.setGfx g).v = s.v := rfl
@[simp] theorem State.setGfx_i (g : Frame) : (s.setGfx g).i = s.i := rfl
@[simp] theorem State.setGfx_pc (g : Frame) : (s.setGfx g).pc = s.pc := rfl
@[simp] theorem State.setGfx_stack (g : Frame) : (s.setGfx g).stack = s.stack := rfl
@[simp] theorem State.setGfx_sp (g : Frame) : (s.setGfx g).sp = s.sp := rfl
@[simp] theorem State.setGfx_dt (g : Frame) : (s.setGfx g).dt = s.dt := rfl
@[simp] theorem State.setGfx_st (g : Frame) : (s.setGfx g).st = s.st := rfl
@[simp] theorem State.setGfx_mem (g : Frame) : (s.setGfx g).mem = s.mem := rfl
@[simp] theorem State.setGfx_gfx (g : Frame) : (s.setGfx g).gfx = g := rfl
@[simp] theorem State.setGfx_key (g : Frame) : (s.setGfx g).key = s.key := rfl
@[simp] theorem State.setGfx_op (g : Frame) : (s.setGfx g).op = s.op := rfl
@[simp] theorem State.setGfx_tp (g : Frame) : (s.setGfx g).tp = s.tp := rfl
@[simp] theorem State.setGfx_loaded (g : Frame) : (s.setGfx g).loaded = s.loaded := rfl
@[simp] theorem State.setGfx_cfg (g : Frame) : (s.setGfx g).cfg = s.cfg := rfl
@[simp] theorem State.setGfx_events (g : Frame) : (s.setGfx g).events = s.events := rfl
@[simp] theorem State.setGfx_slot (g : Frame) : (s.setGfx g).slot = s.slot := rfl
@[simp] theorem State.setGfx_ticks (g : Frame) : (s.setGfx g).ticks = s.ticks := rfl

/-! #### `setDt` -/

@[simp] theorem State.setDt_v (b : Byte) : (s.setDt b).v = s.v := rfl
@[simp] theorem State.setDt_i (b : Byte) : (s.setDt b).i = s.i := rfl
@[simp] theorem State.setDt_pc (b : Byte) : (s.setDt b).pc = s.pc := rfl
@[simp] theorem State.setDt_stack (b : Byte) : (s.setDt b).stack = s.stack := rfl
@[simp] theorem State.setDt_sp (b : Byte) : (s.setDt b).sp = s.sp := rfl
@[simp] theorem State.setDt_dt (b : Byte) : (s.setDt b).dt = b := rfl
@[simp] theorem State.setDt_st (b : Byte) : (s.setDt b).st = s.st := rfl
@[simp] theorem State.setDt_mem (b : Byte) : (s.setDt b).mem = s.mem := rfl
@[simp] theorem State.setDt_gfx (b : Byte) : (s.setDt b).gfx = s.gfx := rfl
@[simp] theorem State.setDt_key (b : Byte) : (s.setDt b).key = s.key := rfl
@[simp] theorem State.setDt_op (b : Byte) : (s.setDt b).op = s.op := rfl
@[simp] theorem State.setDt_tp (b : Byte) : (s.setDt b).tp = s.tp := rfl
@[simp] theorem State.setDt_loaded (b : Byte) : (s.setDt b).loaded = s.loaded := rfl
@[simp] theorem State.setDt_cfg (b : Byte) : (s.setDt b).cfg = s.cfg := rfl
@[simp] theorem State.setDt_events (b : Byte) : (s.setDt b).events = s.events := rfl
@[simp] theorem State.setDt_slot (b : Byte) : (s.setDt b).slot = s.slot := rfl
@[simp] theorem State.setDt_ticks (b : Byte) : (s.setDt b).ticks = s.ticks := rfl

/-! #### `setSt` -/

@[simp] theorem State.setSt_v (b : Byte) : (s.setSt b).v = s.v := rfl
@[simp] theorem State.setSt_i (b : Byte) : (s.setSt b).i = s.i := rfl
@[simp] theorem State.setSt_pc (b : Byte) : (s.setSt b).pc = s.pc := rfl
@[simp] theorem State.setSt_stack (b : Byte) : (s.setSt b).stack = s.stack := rfl
@[simp] theorem State.setSt_sp (b : Byte) : (s.setSt b).sp = s.sp := rfl
@[simp] theorem State.setSt_dt (b : Byte) : (s.setSt b).dt = s.dt := rfl
@[simp] theorem State.setSt_st (b : Byte) : (s.setSt b).st = b := rfl
@[simp] theorem State.setSt_mem (b : Byte) : (s.setSt b).mem = s.mem := rfl
@[simp] theorem State.setSt_gfx (b : Byte) : (s.setSt b).gfx = s.gfx := rfl
@[simp] theorem State.setSt_key (b : Byte) : (s.setSt b).key = s.key := rfl
@[simp] theorem State.setSt_op (b : Byte) : (s.setSt b).op = s.op := rfl
@[simp] theorem State.setSt_tp (b : Byte) : (s.setSt b).tp = s.tp := rfl
@[simp] theorem State.setSt_loaded (b : Byte) : (s.setSt b).loaded = s.loaded := rfl
@[simp] theorem State.setSt_cfg (b : Byte) : (s.setSt b).cfg = s.cfg := rfl
@[simp] theorem State.setSt_events (b : Byte) : (s.setSt b).events = s.events := rfl
@[simp] theorem State.setSt_slot (b : Byte) : (s.setSt b).slot = s.slot := rfl
@[simp] theorem State.setSt_ticks (b : Byte) : (s.setSt b).ticks = s.ticks := rfl

/-! #### `emit` -/

@[simp] theorem State.emit_v (e : Event) : (s.emit e).v = s.v := rfl
@[simp] theorem State.emit_i (e : Event) : (s.emit e).i = s.i := rfl
@[simp] theorem State.emit_pc (e : Event) : (s.emit e).pc = s.pc := rfl
@[simp] theorem State.emit_stack (e : Event) : (s.emit e).stack = s.stack := rfl
@[simp] theorem State.emit_sp (e : Event) : (s.emit e).sp = s.sp := rfl
@[simp] theorem State.emit_dt (e : Event) : (s.emit e).dt = s.dt := rfl
@[simp] theorem State.emit_st (e : Event) : (s.emit e).st = s.st := rfl
@[simp] theorem State.emit_mem (e : Event) : (s.emit e).mem = s.mem := rfl
@[simp] theorem State.emit_gfx (e : Event) : (s.emit e).gfx = s.gfx := rfl
@[simp] theorem State.emit_key (e : Event) : (s.emit e).key = s.key := rfl
@[simp] theorem State.emit_op (e : Event) : (s.emit e).op = s.op := rfl
@[simp] theorem State.emit_tp (e : Event) : (s.emit e).tp = s.tp := rfl
@[simp] theorem State.emit_loaded (e : Event) : (s.emit e).loaded = s.loaded := rfl
@[simp] theorem State.emit_cfg (e : Event) : (s.emit e).cfg = s.cfg := rfl
@[simp] theorem State.emit_events (e : Event) : (s.emit e).events = s.events ++ [e] := rfl
@[simp] theorem State.emit_slot (e : Event) : (s.emit e).slot = s.slot := rfl
@[simp] theorem State.emit_ticks (e : Event) : (s.emit e).ticks = s.ticks := rfl

/-! #### `tick` -/

@[simp] theorem State.tick_v : s.tick.v = s.v := rfl
@[simp] theorem State.tick_i : s.tick.i = s.i := rfl
@[simp] theorem State.tick_pc : s.tick.pc = s.pc := rfl
@[simp] theorem State.tick_stack : s.tick.stack = s.stack := rfl
@[simp] theorem State.tick_sp : s.tick.sp = s.sp := rfl
@[simp] theorem State.tick_dt : s.tick.dt = s.dt := rfl
@[simp] theorem State.tick_st : s.tick.st = s.st := rfl
@[simp] theorem State.tick_mem : s.tick.mem = s.mem := rfl
@[simp] theorem State.tick_gfx : s.tick.gfx = s.gfx := rfl
@[simp] theorem State.tick_key : s.tick.key = s.key := rfl
@[simp] theorem State.tick_op : s.tick.op = s.op := rfl
@[simp] theorem State.tick_tp : s.tick.tp = true := rfl
@[simp] theorem State.tick_loaded : s.tick.loaded = s.loaded := rfl
@[simp] theorem State.tick_cfg : s.tick.cfg = s.cfg := rfl
@[simp] theorem State.tick_events : s.tick.events = s.events := rfl
@[simp] theorem State.tick_slot : s.tick.slot = s.slot := rfl
@[simp] theorem State.tick_ticks : s.tick.ticks = s.ticks := rfl

/-! #### `beginCycle` -/

@[simp] theorem State.beginCycle_v : s.beginCycle.v = s.v := rfl
@[simp] theorem State.beginCycle_i : s.beginCycle.i = s.i := rfl
@[simp] theorem State.beginCycle_pc : s.beginCycle.pc = s.pc := rfl
@[simp] theorem State.beginCycle_stack : s.beginCycle.stack = s.stack := rfl
@[simp] theorem State.beginCycle_sp : s.beginCycle.sp = s.sp := rfl
@[simp] theorem State.beginCycle_dt : s.beginCycle.dt = s.dt := rfl
@[simp] theorem State.beginCycle_st : s.beginCycle.st = s.st := rfl
@[simp] theorem State.beginCycle_mem : s.beginCycle.mem = s.mem := rfl
@[simp] theorem State.beginCycle_gfx : s.beginCycle.gfx = s.gfx := rfl
@[simp] theorem State.beginCycle_key : s.beginCycle.key = s.key := rfl
@[simp] theorem State.beginCycle_op : s.beginCycle.op = s.op := rfl
@[simp] theorem State.beginCycle_tp : s.beginCycle.tp = s.tp := rfl
@[simp] theorem State.beginCycle_loaded : s.beginCycle.loaded = s.loaded := rfl
@[simp] theorem State.beginCycle_cfg : s.beginCycle.cfg = s.cfg := rfl
@[simp] theorem State.beginCycle_events : s.beginCycle.events = [] := rfl
@[simp] theorem State.beginCycle_slot : s.beginCycle.slot = s.slot + 1 := rfl
@[simp] theorem State.beginCycle_ticks : s.beginCycle.ticks = s.ticks := rfl

/-! #### `setOp` -/

@[simp] theorem State.setOp_v (w : Word) : (s.setOp w).v = s.v := rfl
@[simp] theorem State.setOp_i (w : Word) : (s.setOp w).i = s.i := rfl
@[simp] theorem State.setOp_pc (w : Word) : (s.setOp w).pc = s.pc := rfl
@[simp] theorem State.setOp_stack (w : Word) : (s.setOp w).stack = s.stack := rfl
@[simp] theorem State.setOp_sp (w : Word) : (s.setOp w).sp = s.sp := rfl
@[simp] theorem State.setOp_dt (w : Word) : (s.setOp w).dt = s.dt := rfl
@[simp] theorem State.setOp_st (w : Word) : (s.setOp w).st = s.st := rfl
@[simp] theorem State.setOp_mem (w : Word) : (s.setOp w).mem = s.mem := rfl
@[simp] theorem State.setOp_gfx (w : Word) : (s.setOp w).gfx = s.gfx := rfl
@[simp] theorem State.setOp_key (w : Word) : (s.setOp w).key = s.key := rfl
@[simp] theorem State.setOp_op (w : Word) : (s.setOp w).op = w := rfl
@[simp] theorem State.setOp_tp (w : Word) : (s.setOp w).tp = s.tp := rfl
@[simp] theorem State.setOp_loaded (w : Word) : (s.setOp w).loaded = s.loaded := rfl
@[simp] theorem State.setOp_cfg (w : Word) : (s.setOp w).cfg = s.cfg := rfl
@[simp] theorem State.setOp_events (w : Word) : (s.setOp w).events = s.events := rfl
@[simp] theorem State.setOp_slot (w : Word) : (s.setOp w).slot = s.slot := rfl
@[simp] theorem State.setOp_ticks (w : Word) : (s.setOp w).ticks = s.ticks := rfl

/-! #### `writeByte` -/

@[simp] theorem State.writeByte_v (a : Nat) (b : Byte) : (s.writeByte a b).v = s.v := rfl
@[simp] theorem State.writeByte_i (a : Nat) (b : Byte) : (s.writeByte a b).i = s.i := rfl
@[simp] theorem State.writeByte_pc (a : Nat) (b : Byte) : (s.writeByte a b).pc = s.pc := rfl
@[simp] theorem State.writeByte_stack (a : Nat) (b : Byte) : (s.writeByte a b).stack = s.stack := rfl
@[simp] theorem State.writeByte_sp (a : Nat) (b : Byte) : (s.writeByte a b).sp = s.sp := rfl
@[simp] theorem State.writeByte_dt (a : Nat) (b : Byte) : (s.writeByte a b).dt = s.dt := rfl
@[simp] theorem State.writeByte_st (a : Nat) (b : Byte) : (s.writeByte a b).st = s.st := rfl
@[simp] theorem State.writeByte_mem (a : Nat) (b : Byte) : (s.writeByte a b).mem = Memory.write (resetByte s.cfg) s.mem a b := rfl
@[simp] theorem State.writeByte_gfx (a : Nat) (b : Byte) : (s.writeByte a b).gfx = s.gfx := rfl
@[simp] theorem State.writeByte_key (a : Nat) (b : Byte) : (s.writeByte a b).key = s.key := rfl
@[simp] theorem State.writeByte_op (a : Nat) (b : Byte) : (s.writeByte a b).op = s.op := rfl
@[simp] theorem State.writeByte_tp (a : Nat) (b : Byte) : (s.writeByte a b).tp = s.tp := rfl
@[simp] theorem State.writeByte_loaded (a : Nat) (b : Byte) : (s.writeByte a b).loaded = s.loaded := rfl
@[simp] theorem State.writeByte_cfg (a : Nat) (b : Byte) : (s.writeByte a b).cfg = s.cfg := rfl
@[simp] theorem State.writeByte_events (a : Nat) (b : Byte) : (s.writeByte a b).events = s.events := rfl
@[simp] theorem State.writeByte_slot (a : Nat) (b : Byte) : (s.writeByte a b).slot = s.slot := rfl
@[simp] theorem State.writeByte_ticks (a : Nat) (b : Byte) : (s.writeByte a b).ticks = s.ticks := rfl

/-! #### `loadBlock` -/

@[simp] theorem State.loadBlock_v (x : Nibble) : (s.loadBlock x).v = loadRegs s.readByte s.base (x.toNat + 1) s.v := rfl
@[simp] theorem State.loadBlock_i (x : Nibble) : (s.loadBlock x).i = s.i := rfl
@[simp] theorem State.loadBlock_pc (x : Nibble) : (s.loadBlock x).pc = s.pc := rfl
@[simp] theorem State.loadBlock_stack (x : Nibble) : (s.loadBlock x).stack = s.stack := rfl
@[simp] theorem State.loadBlock_sp (x : Nibble) : (s.loadBlock x).sp = s.sp := rfl
@[simp] theorem State.loadBlock_dt (x : Nibble) : (s.loadBlock x).dt = s.dt := rfl
@[simp] theorem State.loadBlock_st (x : Nibble) : (s.loadBlock x).st = s.st := rfl
@[simp] theorem State.loadBlock_mem (x : Nibble) : (s.loadBlock x).mem = s.mem := rfl
@[simp] theorem State.loadBlock_gfx (x : Nibble) : (s.loadBlock x).gfx = s.gfx := rfl
@[simp] theorem State.loadBlock_key (x : Nibble) : (s.loadBlock x).key = s.key := rfl
@[simp] theorem State.loadBlock_op (x : Nibble) : (s.loadBlock x).op = s.op := rfl
@[simp] theorem State.loadBlock_tp (x : Nibble) : (s.loadBlock x).tp = s.tp := rfl
@[simp] theorem State.loadBlock_loaded (x : Nibble) : (s.loadBlock x).loaded = s.loaded := rfl
@[simp] theorem State.loadBlock_cfg (x : Nibble) : (s.loadBlock x).cfg = s.cfg := rfl
@[simp] theorem State.loadBlock_events (x : Nibble) : (s.loadBlock x).events = s.events := rfl
@[simp] theorem State.loadBlock_slot (x : Nibble) : (s.loadBlock x).slot = s.slot := rfl
@[simp] theorem State.loadBlock_ticks (x : Nibble) : (s.loadBlock x).ticks = s.ticks := rfl

/-! #### `setFlagged` -/

@[simp] theorem State.setFlagged_v (x : Nibble) (r : Byte) (c : Bool) : (s.setFlagged x r c).v = (s.v.set x.toNat r).set vf.toNat (flagByte c) := rfl
@[simp] theorem State.setFlagged_i (x : Nibble) (r : Byte) (c : Bool) : (s.setFlagged x r c).i = s.i := rfl
@[simp] theorem State.setFlagged_pc (x : Nibble) (r : Byte) (c : Bool) : (s.setFlagged x r c).pc = s.pc := rfl
@[simp] theorem State.setFlagged_stack (x : Nibble) (r : Byte) (c : Bool) : (s.setFlagged x r c).stack = s.stack := rfl
@[simp] theorem State.setFlagged_sp (x : Nibble) (r : Byte) (c : Bool) : (s.setFlagged x r c).sp = s.sp := rfl
@[simp] theorem State.setFlagged_dt (x : Nibble) (r : Byte) (c : Bool) : (s.setFlagged x r c).dt = s.dt := rfl
@[simp] theorem State.setFlagged_st (x : Nibble) (r : Byte) (c : Bool) : (s.setFlagged x r c).st = s.st := rfl
@[simp] theorem State.setFlagged_mem (x : Nibble) (r : Byte) (c : Bool) : (s.setFlagged x r c).mem = s.mem := rfl
@[simp] theorem State.setFlagged_gfx (x : Nibble) (r : Byte) (c : Bool) : (s.setFlagged x r c).gfx = s.gfx := rfl
@[simp] theorem State.setFlagged_key (x : Nibble) (r : Byte) (c : Bool) : (s.setFlagged x r c).key = s.key := rfl
@[simp] theorem State.setFlagged_op (x : Nibble) (r : Byte) (c : Bool) : (s.setFlagged x r c).op = s.op := rfl
@[simp] theorem State.setFlagged_tp (x : Nibble) (r : Byte) (c : Bool) : (s.setFlagged x r c).tp = s.tp := rfl
@[simp] theorem State.setFlagged_loaded (x : Nibble) (r : Byte) (c : Bool) : (s.setFlagged x r c).loaded = s.loaded := rfl
@[simp] theorem State.setFlagged_cfg (x : Nibble) (r : Byte) (c : Bool) : (s.setFlagged x r c).cfg = s.cfg := rfl
@[simp] theorem State.setFlagged_events (x : Nibble) (r : Byte) (c : Bool) : (s.setFlagged x r c).events = s.events := rfl
@[simp] theorem State.setFlagged_slot (x : Nibble) (r : Byte) (c : Bool) : (s.setFlagged x r c).slot = s.slot := rfl
@[simp] theorem State.setFlagged_ticks (x : Nibble) (r : Byte) (c : Bool) : (s.setFlagged x r c).ticks = s.ticks := rfl

/-! #### `drawCells` -/

@[simp] theorem State.drawCells_v (cells : List Nat) : (s.drawCells cells).v = s.v.set vf.toNat (flagByte (blit cells (s.gfx, false)).2) := rfl
@[simp] theorem State.drawCells_i (cells : List Nat) : (s.drawCells cells).i = s.i := rfl
@[simp] theorem State.drawCells_pc (cells : List Nat) : (s.drawCells cells).pc = s.pc := rfl
@[simp] theorem State.drawCells_stack (cells : List Nat) : (s.drawCells cells).stack = s.stack := rfl
@[simp] theorem State.drawCells_sp (cells : List Nat) : (s.drawCells cells).sp = s.sp := rfl
@[simp] theorem State.drawCells_dt (cells : List Nat) : (s.drawCells cells).dt = s.dt := rfl
@[simp] theorem State.drawCells_st (cells : List Nat) : (s.drawCells cells).st = s.st := rfl
@[simp] theorem State.drawCells_mem (cells : List Nat) : (s.drawCells cells).mem = s.mem := rfl
@[simp] theorem State.drawCells_gfx (cells : List Nat) : (s.drawCells cells).gfx = (blit cells (s.gfx, false)).1 := rfl
@[simp] theorem State.drawCells_key (cells : List Nat) : (s.drawCells cells).key = s.key := rfl
@[simp] theorem State.drawCells_op (cells : List Nat) : (s.drawCells cells).op = s.op := rfl
@[simp] theorem State.drawCells_tp (cells : List Nat) : (s.drawCells cells).tp = s.tp := rfl
@[simp] theorem State.drawCells_loaded (cells : List Nat) : (s.drawCells cells).loaded = s.loaded := rfl
@[simp] theorem State.drawCells_cfg (cells : List Nat) : (s.drawCells cells).cfg = s.cfg := rfl
@[simp] theorem State.drawCells_events (cells : List Nat) : (s.drawCells cells).events = s.events ++ [.draw] := rfl
@[simp] theorem State.drawCells_slot (cells : List Nat) : (s.drawCells cells).slot = s.slot := rfl
@[simp] theorem State.drawCells_ticks (cells : List Nat) : (s.drawCells cells).ticks = s.ticks := rfl

/-! #### `tickerTurn` -/

@[simp] theorem tickerTurn_v : (tickerTurn s).v = s.v := rfl
@[simp] theorem tickerTurn_i : (tickerTurn s).i = s.i := rfl
@[simp] theorem tickerTurn_pc : (tickerTurn s).pc = s.pc := rfl
@[simp] theorem tickerTurn_stack : (tickerTurn s).stack = s.stack := rfl
@[simp] theorem tickerTurn_sp : (tickerTurn s).sp = s.sp := rfl
@[simp] theorem tickerTurn_dt : (tickerTurn s).dt = s.dt := rfl
@[simp] theorem tickerTurn_st : (tickerTurn s).st = s.st := rfl
@[simp] theorem tickerTurn_mem : (tickerTurn s).mem = s.mem := rfl
@[simp] theorem tickerTurn_gfx : (tickerTurn s).gfx = s.gfx := rfl
@[simp] theorem tickerTurn_key : (tickerTurn s).key = s.key := rfl
@[simp] theorem tickerTurn_op : (tickerTurn s).op = s.op := rfl
@[simp] theorem tickerTurn_tp : (tickerTurn s).tp = (s.tp || s.tickerFires) := rfl
@[simp] theorem tickerTurn_loaded : (tickerTurn s).loaded = s.loaded := rfl
@[simp] theorem tickerTurn_cfg : (tickerTurn s).cfg = s.cfg := rfl
@[simp] theorem tickerTurn_events : (tickerTurn s).events = s.events := rfl
@[simp] theorem tickerTurn_slot : (tickerTurn s).slot = s.slot := rfl
@[simp] theorem tickerTurn_ticks : (tickerTurn s).ticks = s.ticks.tail := rfl

/-! #### `skipIf` -/

@[simp] theorem State.skipIf_v (c : Bool) : (s.skipIf c).v = s.v := by cases c <;> rfl
@[simp] theorem State.skipIf_i (c : Bool) : (s.skipIf c).i = s.i := by cases c <;> rfl
@[simp] theorem State.skipIf_pc (c : Bool) :
    (s.skipIf c).pc = if c then s.pc + 4#16 else s.pc + 2#16 := by cases c <;> rfl
@[simp] theorem State.skipIf_stack (c : Bool) : (s.skipIf c).stack = s.stack := by cases c <;> rfl
@[simp] theorem State.skipIf_sp (c : Bool) : (s.skipIf c).sp = s.sp := by cases c <;> rfl
@[simp] theorem State.skipIf_dt (c : Bool) : (s.skipIf c).dt = s.dt := by cases c <;> rfl
@[simp] theorem State.skipIf_st (c : Bool) : (s.skipIf c).st = s.st := by cases c <;> rfl
@[simp] theorem State.skipIf_mem (c : Bool) : (s.skipIf c).mem = s.mem := by cases c <;> rfl
@[simp] theorem State.skipIf_gfx (c : Bool) : (s.skipIf c).gfx = s.gfx := by cases c <;> rfl
@[simp] theorem State.skipIf_key (c : Bool) : (s.skipIf c).key = s.key := by cases c <;> rfl
@[simp] theorem State.skipIf_op (c : Bool) : (s.skipIf c).op = s.op := by cases c <;> rfl
@[simp] theorem State.skipIf_tp (c : Bool) : (s.skipIf c).tp = s.tp := by cases c <;> rfl
@[simp] theorem State.skipIf_loaded (c : Bool) : (s.skipIf c).loaded = s.loaded := by cases c <;> rfl
@[simp] theorem State.skipIf_cfg (c : Bool) : (s.skipIf c).cfg = s.cfg := by cases c <;> rfl
@[simp] theorem State.skipIf_events (c : Bool) : (s.skipIf c).events = s.events := by cases c <;> rfl
@[simp] theorem State.skipIf_slot (c : Bool) : (s.skipIf c).slot = s.slot := by cases c <;> rfl
@[simp] theorem State.skipIf_ticks (c : Bool) : (s.skipIf c).ticks = s.ticks := by cases c <;> rfl

/-! #### `service` -/

@[simp] theorem State.service_v : s.service.v = s.v := by
  by_cases h : s.tp <;> by_cases g : s.st = 0x01#8 <;> simp [State.service, h, g]
@[simp] theorem State.service_i : s.service.i = s.i := by
  by_cases h : s.tp <;> by_cases g : s.st = 0x01#8 <;> simp [State.service, h, g]
@[simp] theorem State.service_pc : s.service.pc = s.pc := by
  by_cases h : s.tp <;> by_cases g : s.st = 0x01#8 <;> simp [State.service, h, g]
@[simp] theorem State.service_stack : s.service.stack = s.stack := by
  by_cases h : s.tp <;> by_cases g : s.st = 0x01#8 <;> simp [State.service, h, g]
@[simp] theorem State.service_sp : s.service.sp = s.sp := by
  by_cases h : s.tp <;> by_cases g : s.st = 0x01#8 <;> simp [State.service, h, g]
@[simp] theorem State.service_dt : s.service.dt = if s.tp then decrement s.dt else s.dt := by
  by_cases h : s.tp <;> by_cases g : s.st = 0x01#8 <;> simp [State.service, h, g]
@[simp] theorem State.service_st : s.service.st = if s.tp then decrement s.st else s.st := by
  by_cases h : s.tp <;> by_cases g : s.st = 0x01#8 <;> simp [State.service, h, g]
@[simp] theorem State.service_mem : s.service.mem = s.mem := by
  by_cases h : s.tp <;> by_cases g : s.st = 0x01#8 <;> simp [State.service, h, g]
@[simp] theorem State.service_gfx : s.service.gfx = s.gfx := by
  by_cases h : s.tp <;> by_cases g : s.st = 0x01#8 <;> simp [State.service, h, g]
@[simp] theorem State.service_key : s.service.key = s.key := by
  by_cases h : s.tp <;> by_cases g : s.st = 0x01#8 <;> simp [State.service, h, g]
@[simp] theorem State.service_op : s.service.op = s.op := by
  by_cases h : s.tp <;> by_cases g : s.st = 0x01#8 <;> simp [State.service, h, g]
@[simp] theorem State.service_tp : (s.service).tp = false := by
  by_cases h : s.tp <;> by_cases g : s.st = 0x01#8 <;> simp [State.service, h, g]
@[simp] theorem State.service_loaded : s.service.loaded = s.loaded := by
  by_cases h : s.tp <;> by_cases g : s.st = 0x01#8 <;> simp [State.service, h, g]
@[simp] theorem State.service_cfg : s.service.cfg = s.cfg := by
  by_cases h : s.tp <;> by_cases g : s.st = 0x01#8 <;> simp [State.service, h, g]
@[simp] theorem State.service_events : s.service.events = if s.tp ∧ s.st = 0x01#8 then s.events ++ [.beep] else s.events := by
  by_cases h : s.tp <;> by_cases g : s.st = 0x01#8 <;> simp [State.service, h, g]
@[simp] theorem State.service_slot : s.service.slot = s.slot := by
  by_cases h : s.tp <;> by_cases g : s.st = 0x01#8 <;> simp [State.service, h, g]
@[simp] theorem State.service_ticks : s.service.ticks = s.ticks := by
  by_cases h : s.tp <;> by_cases g : s.st = 0x01#8 <;> simp [State.service, h, g]

/-! #### `writeBytes` -/

@[simp] theorem State.writeBytes_v (a : Nat) (bs : List Byte) : (s.writeBytes a bs).v = s.v := by
  induction bs generalizing s a with
  | nil => rfl
  | cons b bs ih => simp [State.writeBytes, ih]
@[simp] theorem State.writeBytes_i (a : Nat) (bs : List Byte) : (s.writeBytes a bs).i = s.i := by
  induction bs generalizing s a with
  | nil => rfl
  | cons b bs ih => simp [State.writeBytes, ih]
@[simp] theorem State.writeBytes_pc (a : Nat) (bs : List Byte) : (s.writeBytes a bs).pc = s.pc := by
  induction bs generalizing s a with
  | nil => rfl
  | cons b bs ih => simp [State.writeBytes, ih]
@[simp] theorem State.writeBytes_stack (a : Nat) (bs : List Byte) : (s.writeBytes a bs).stack = s.stack := by
  induction bs generalizing s a with
  | nil => rfl
  | cons b bs ih => simp [State.writeBytes, ih]
@[simp] theorem State.writeBytes_sp (a : Nat) (bs : List Byte) : (s.writeBytes a bs).sp = s.sp := by
  induction bs generalizing s a with
  | nil => rfl
  | cons b bs ih => simp [State.writeBytes, ih]
@[simp] theorem State.writeBytes_dt (a : Nat) (bs : List Byte) : (s.writeBytes a bs).dt = s.dt := by
  induction bs generalizing s a with
  | nil => rfl
  | cons b bs ih => simp [State.writeBytes, ih]
@[simp] theorem State.writeBytes_st (a : Nat) (bs : List Byte) : (s.writeBytes a bs).st = s.st := by
  induction bs generalizing s a with
  | nil => rfl
  | cons b bs ih => simp [State.writeBytes, ih]
@[simp] theorem State.writeBytes_gfx (a : Nat) (bs : List Byte) : (s.writeBytes a bs).gfx = s.gfx := by
  induction bs generalizing s a with
  | nil => rfl
  | cons b bs ih => simp [State.writeBytes, ih]
@[simp] theorem State.writeBytes_key (a : Nat) (bs : List Byte) : (s.writeBytes a bs).key = s.key := by
  induction bs generalizing s a with
  | nil => rfl
  | cons b bs ih => simp [State.writeBytes, ih]
@[simp] theorem State.writeBytes_op (a : Nat) (bs : List Byte) : (s.writeBytes a bs).op = s.op := by
  induction bs generalizing s a with
  | nil => rfl
  | cons b bs ih => simp [State.writeBytes, ih]
@[simp] theorem State.writeBytes_tp (a : Nat) (bs : List Byte) : (s.writeBytes a bs).tp = s.tp := by
  induction bs generalizing s a with
  | nil => rfl
  | cons b bs ih => simp [State.writeBytes, ih]
@[simp] theorem State.writeBytes_loaded (a : Nat) (bs : List Byte) : (s.writeBytes a bs).loaded = s.loaded := by
  induction bs generalizing s a with
  | nil => rfl
  | cons b bs ih => simp [State.writeBytes, ih]
@[simp] theorem State.writeBytes_cfg (a : Nat) (bs : List Byte) : (s.writeBytes a bs).cfg = s.cfg := by
  induction bs generalizing s a with
  | nil => rfl
  | cons b bs ih => simp [State.writeBytes, ih]
@[simp] theorem State.writeBytes_events (a : Nat) (bs : List Byte) : (s.writeBytes a bs).events = s.events := by
  induction bs generalizing s a with
  | nil => rfl
  | cons b bs ih => simp [State.writeBytes, ih]
@[simp] theorem State.writeBytes_slot (a : Nat) (bs : List Byte) : (s.writeBytes a bs).slot = s.slot := by
  induction bs generalizing s a with
  | nil => rfl
  | cons b bs ih => simp [State.writeBytes, ih]
@[simp] theorem State.writeBytes_ticks (a : Nat) (bs : List Byte) : (s.writeBytes a bs).ticks = s.ticks := by
  induction bs generalizing s a with
  | nil => rfl
  | cons b bs ih => simp [State.writeBytes, ih]

end Sys2Proof.Machine
end

