-- ==== Sys2Proof/Laws/Ops.lean ====
section
/-! SUPPORT. What each shared operation over registers, memory, stack, framebuffer and keys does, said once. -/

namespace Sys2Proof.Machine

variable (s : State)

/-! ### Registers -/

@[simp] theorem State.getV_setV (x r : Nibble) (b : Byte) :
    (s.setV x b).getV r = if r = x then b else s.getV r := by
  simp only [State.getV, State.setV_v, Vector.getElem_set, BitVec.toNat_inj, eq_comm]

/-- A register is read from `v` alone. -/
theorem State.getV_congr {s t : State} (h : t.v = s.v) (r : Nibble) : t.getV r = s.getV r := by
  simp [State.getV, h]

@[simp] theorem State.getV_advance (r : Nibble) : s.advance.getV r = s.getV r := rfl
@[simp] theorem State.getV_setI (w : Word) (r : Nibble) : (s.setI w).getV r = s.getV r := rfl
@[simp] theorem State.getV_setPc (w : Word) (r : Nibble) : (s.setPc w).getV r = s.getV r := rfl
@[simp] theorem State.getV_setGfx (g : Frame) (r : Nibble) : (s.setGfx g).getV r = s.getV r := rfl
@[simp] theorem State.getV_emit (e : Event) (r : Nibble) : (s.emit e).getV r = s.getV r := rfl
@[simp] theorem State.getV_setDt (b : Byte) (r : Nibble) : (s.setDt b).getV r = s.getV r := rfl
@[simp] theorem State.getV_setSt (b : Byte) (r : Nibble) : (s.setSt b).getV r = s.getV r := rfl
@[simp] theorem State.getV_skipIf (c : Bool) (r : Nibble) : (s.skipIf c).getV r = s.getV r :=
  State.getV_congr (by simp) r
@[simp] theorem State.getV_service (r : Nibble) : s.service.getV r = s.getV r :=
  State.getV_congr (by simp) r
@[simp] theorem State.getV_writeBytes (a : Nat) (bs : List Byte) (r : Nibble) :
    (s.writeBytes a bs).getV r = s.getV r :=
  State.getV_congr (by simp) r

/-- Result and flag: VF ends holding the flag, whatever x is (42_alu.md R160). -/
theorem State.getV_setFlagged (x r : Nibble) (b : Byte) (c : Bool) :
    (s.setFlagged x b c).getV r = if r = vf then flagByte c else if r = x then b else s.getV r := by
  simp only [State.setFlagged, State.getV_setV]

/-- The registers after a block load of `n` bytes. -/
theorem loadRegs_getElem (rd : Nat → Byte) (a n : Nat) (v : Vector Byte 16) (k : Nat) (h : k < 16) :
    (loadRegs rd a n v)[k] = if k < n then rd (a + k) else v[k] := by
  induction n with
  | zero => simp [loadRegs]
  | succ n ih =>
    simp only [loadRegs, Vector.getElem_setIfInBounds, ih]
    by_cases hk : n = k
    · subst hk; simp
    · have : k < n + 1 ↔ k < n := by omega
      simp [hk, this]

/-- V0 to Vx hold the bytes at I to I+x; the other registers are as they were (R205). -/
theorem State.getV_loadBlock (x r : Nibble) :
    (s.loadBlock x).getV r =
      if r.toNat ≤ x.toNat then s.readByte (s.base + r.toNat) else s.getV r := by
  simp only [State.getV, State.loadBlock_v, loadRegs_getElem, Nat.lt_succ_iff]

/-! ### Memory -/

/-- A byte is read from memory and the configuration alone. -/
theorem State.readByte_congr {s t : State} (hm : t.mem = s.mem) (hc : t.cfg = s.cfg) (a : Nat) :
    t.readByte a = s.readByte a := by
  simp [State.readByte, hm, hc]

@[simp] theorem State.readByte_writeByte (a : Nat) (b : Byte) (c : Nat) :
    (s.writeByte a b).readByte c = if c = a then b else s.readByte c := by
  simp [State.readByte, Memory.read_write]

/-- The bytes written are read back at their addresses, every other byte is as before. -/
theorem State.readByte_writeBytes (a : Nat) (bs : List Byte) (c : Nat) :
    (s.writeBytes a bs).readByte c =
      if a ≤ c then (bs[c - a]?).getD (s.readByte c) else s.readByte c := by
  induction bs generalizing s a with
  | nil => simp [State.writeBytes]
  | cons b bs ih =>
    simp only [State.writeBytes, ih, State.readByte_writeByte]
    rcases lt_trichotomy c a with h | h | h
    · have h1 : ¬ a + 1 ≤ c := by omega
      have h2 : ¬ a ≤ c := by omega
      have h3 : c ≠ a := by omega
      simp [h1, h2, h3]
    · subst h; simp
    · have h1 : a + 1 ≤ c := by omega
      have h2 : a ≤ c := by omega
      have h3 : c ≠ a := by omega
      have h4 : c - a = (c - (a + 1)) + 1 := by omega
      simp [h1, h2, h3, h4]

/-- Writing bytes writes memory and nothing else. -/
theorem State.writeBytes_eq (a : Nat) (bs : List Byte) :
    s.writeBytes a bs = { s with mem := (s.writeBytes a bs).mem } := by
  induction bs generalizing s a with
  | nil => rfl
  | cons b bs ih => simp only [State.writeBytes]; rw [ih]; rfl

/-- Writing bytes inside RAM keeps memory canonical and inside RAM. -/
theorem State.writeBytes_mem_wf (a : Nat) (bs : List Byte)
    (h : Memory.wf (resetByte s.cfg) s.mem) :
    Memory.wf (resetByte s.cfg) (s.writeBytes a bs).mem := by
  induction bs generalizing s a with
  | nil => exact h
  | cons b bs ih =>
    have h1 := Memory.write_wf (resetByte s.cfg) (a := a) (b := b) h
    simpa [State.writeBytes] using ih (s.writeByte a b) (a + 1) (by simpa using h1)

/-- The addresses that writing bytes inside RAM leaves listed are inside RAM. -/
theorem State.writeBytes_mem_in (a : Nat) (bs : List Byte) (hb : a + bs.length ≤ memSize)
    (h : ∀ c ∈ s.mem, c.1 < memSize) :
    ∀ c ∈ (s.writeBytes a bs).mem, c.1 < memSize := by
  induction bs generalizing s a with
  | nil => exact h
  | cons b bs ih =>
    simp only [List.length_cons] at hb
    refine ih (s.writeByte a b) (a + 1) (by omega) ?_
    intro c hc
    rcases Memory.mem_write _ hc with rfl | hc
    · simp only; omega
    · exact h c hc

@[simp] theorem State.length_readBytes (a n : Nat) : (s.readBytes a n).length = n := by
  induction n generalizing a with
  | zero => rfl
  | succ n ih => simp [State.readBytes, ih]

theorem State.getElem?_readBytes (a n k : Nat) :
    (s.readBytes a n)[k]? = if k < n then some (s.readByte (a + k)) else none := by
  induction n generalizing a k with
  | zero => simp [State.readBytes]
  | succ n ih =>
    cases k with
    | zero => simp [State.readBytes]
    | succ k => simp [State.readBytes, ih, Nat.add_comm, Nat.add_left_comm]

theorem State.getElem?_firstRegs (n k : Nat) :
    (s.firstRegs n)[k]? = if k < n then s.v[k]? else none := by
  simp only [State.firstRegs, List.getElem?_take]
  split <;> simp

@[simp] theorem State.length_firstRegs {n : Nat} (h : n ≤ 16) : (s.firstRegs n).length = n := by
  simp [State.firstRegs, h]

/-! ### Call stack -/

theorem State.getElem_push {w : Word} (k : Fin 16) :
    (s.push w).stack[k] = if k = s.sp + 1 then w else s.stack[k] := by
  simp only [State.push_stack, Fin.getElem_fin, Vector.getElem_set, Fin.ext_iff, eq_comm]

/-! ### Framebuffer -/

theorem Frame.row_flip (g : Frame) (i y : Nat) (hi : i < 2048) :
    (g.flip i).row y = if y = i / 64 then g.row y ^^^ BitVec.twoPow 64 (i % 64) else g.row y := by
  have h32 : i / 64 < 32 := by omega
  simp only [Frame.row, Frame.flip]
  by_cases hy : y < 32
  · by_cases he : y = i / 64
    · subst he; simp [hy]
    · simp [hy, he, Ne.symm he]
  · have : y ≠ i / 64 := by omega
    simp [hy, this]

/-- A flip changes the one cell. -/
theorem Frame.cell_flip (g : Frame) (i j : Nat) (hi : i < 2048) :
    (g.flip i).cell j = (g.cell j ^^ decide (j = i)) := by
  simp only [Frame.cell, Frame.row_flip g i _ hi]
  by_cases h : j = i
  · subst h
    have : j % 64 < 64 := Nat.mod_lt _ (by decide)
    simp [this]
  · by_cases hy : j / 64 = i / 64
    · have hm : i % 64 ≠ j % 64 := by omega
      simp [hy, h, BitVec.getLsbD_twoPow, hm]
    · simp [hy, h]

@[simp] theorem Frame.cell_clear (i : Nat) : Frame.clear.cell i = false := by
  simp only [Frame.cell, Frame.row, Frame.clear]
  split <;> simp

/-- The cells determine the framebuffer. -/
theorem Frame.ext_cell {g h : Frame} (hc : ∀ j, j < 2048 → g.cell j = h.cell j) : g = h := by
  refine Vector.ext fun y hy => BitVec.eq_of_getLsbD_eq fun c h64 => ?_
  have h1 : (y * 64 + c) / 64 = y := by omega
  have h2 : (y * 64 + c) % 64 = c := by omega
  simpa [Frame.cell, Frame.row, h1, h2, hy] using hc (y * 64 + c) (by omega)

/-! ### Timers -/

theorem toNat_decrement (b : Byte) : (decrement b).toNat = b.toNat - 1 := by
  simp only [decrement]
  split
  · rename_i h; simp [h]
  · rename_i h; bv_omega

/-- The service point, in every field (60_exceptions.md R281 to R283). -/
theorem State.service_eq : s.service = { s with
    tp := false
    dt := if s.tp then decrement s.dt else s.dt
    st := if s.tp then decrement s.st else s.st
    events := s.events ++ (if s.tp = true ∧ s.st = 0x01#8 then [.beep] else []) } := by
  cases h : s.tp
  · simp only [State.service, h, Bool.false_eq_true, if_false, false_and, List.append_nil]
    cases s
    simp_all
  · by_cases h1 : s.st = 0x01#8 <;> simp [State.service, h, h1, State.emit]

/-! ### Operands -/

theorem toNat_addrWord (nnn : Addr) : (addrWord nnn).toNat = nnn.toNat := by
  simp [addrWord]
  omega

theorem toNat_byteWord (b : Byte) : (byteWord b).toNat = b.toNat := by
  simp [byteWord]
  omega

theorem toNat_flagByte (c : Bool) : (flagByte c).toNat = if c then 1 else 0 := by
  cases c <;> rfl

/-! ### Keys -/

/-- The scan from `k` on finds the least pressed key, or none is pressed. -/
theorem State.leastPressed_spec (k n : Nat) (hk : k + n = 16) :
    match s.leastPressed k n with
    | some r => s.pressed r = true ∧ k ≤ r.toNat ∧
        ∀ q : Nibble, k ≤ q.toNat → q.toNat < r.toNat → s.pressed q = false
    | none => ∀ q : Nibble, k ≤ q.toNat → s.pressed q = false := by
  induction n generalizing k with
  | zero => simp only [State.leastPressed]; intro q hq; bv_omega
  | succ n ih =>
    have hkn : (BitVec.ofNat 4 k).toNat = k := by
      simp only [BitVec.toNat_ofNat]; omega
    simp only [State.leastPressed]
    by_cases hp : s.pressed (BitVec.ofNat 4 k) = true
    · rw [if_pos hp]
      exact ⟨hp, by omega, fun q h1 h2 => by omega⟩
    · have hf : s.pressed (BitVec.ofNat 4 k) = false := by simpa using hp
      have hq : ∀ q : Nibble, q.toNat = k → s.pressed q = false := by
        intro q h
        have : q = BitVec.ofNat 4 k := by apply BitVec.eq_of_toNat_eq; omega
        rw [this]; exact hf
      have := ih (k + 1) (by omega)
      simp only [hf]
      revert this
      cases h : s.leastPressed (k + 1) n with
      | none =>
        simp only [Bool.false_eq_true, if_false]
        intro h1 q h2
        by_cases h3 : q.toNat = k
        · exact hq q h3
        · exact h1 q (by omega)
      | some r =>
        simp only [Bool.false_eq_true, if_false]
        rintro ⟨h1, h2, h3⟩
        refine ⟨h1, by omega, fun q h4 h5 => ?_⟩
        by_cases h6 : q.toNat = k
        · exact hq q h6
        · exact h3 q (by omega) h5

/-- FX0A's key: `some` the least pressed key, `none` where none is pressed (R253). -/
theorem State.firstPressed_spec :
    match s.firstPressed with
    | some r => s.pressed r = true ∧ ∀ q : Nibble, q.toNat < r.toNat → s.pressed q = false
    | none => ∀ q : Nibble, s.pressed q = false := by
  have := s.leastPressed_spec 0 16 rfl
  revert this
  simp only [State.firstPressed]
  cases s.leastPressed 0 16 with
  | none => intro h q; exact h q (by omega)
  | some r => rintro ⟨h1, -, h3⟩; exact ⟨h1, fun q hq => h3 q (by omega) hq⟩

end Sys2Proof.Machine
end

