-- ==== Sys2Proof/Laws/Checks.lean ====
section
/-! SUPPORT. What the shared checks, the Cycle and the step can answer, said once: each lemma inverts one
operation. -/

namespace Sys2Proof.Machine

variable (s : State)

/-! ### The checks of an operand -/

theorem State.withRange_of_le {len : Nat} {k : Result} (h : len = 0 ∨ s.base + len ≤ memSize) :
    s.withRange len k = k := by
  simp only [State.withRange, if_pos h]

theorem State.withRange_of_lt {len : Nat} {k : Result} (h0 : len ≠ 0) (h : memSize < s.base + len) :
    s.withRange len k = .fault (.memRange s.op (max s.base memSize)) := by
  have : ¬ (len = 0 ∨ s.base + len ≤ memSize) := by omega
  simp only [State.withRange, if_neg this, State.raise]

/-- A range check answers a next state only where the whole range is in RAM (20_memory.md R64). -/
theorem State.withRange_next {len : Nat} {k : Result} {t : State} (h : s.withRange len k = .next t) :
    (len = 0 ∨ s.base + len ≤ memSize) ∧ k = .next t := by
  simp only [State.withRange] at h
  split at h
  · exact ⟨‹_›, h⟩
  · simp [State.raise] at h

theorem State.withRange_fault {len : Nat} {k : Result} {f : Fault} (h : s.withRange len k = .fault f) :
    ((len = 0 ∨ s.base + len ≤ memSize) ∧ k = .fault f) ∨
      (len ≠ 0 ∧ memSize < s.base + len ∧ f = .memRange s.op (max s.base memSize)) := by
  simp only [State.withRange] at h
  split at h
  · exact .inl ⟨‹_›, h⟩
  · simp only [State.raise, Host.Outcome.fault.injEq] at h
    exact .inr ⟨by omega, by omega, h.symm⟩

theorem State.withKey_of_le {x : Nibble} {k : Nibble → Result} (h : (s.getV x).toNat ≤ 0xF) :
    s.withKey x k = k ((s.getV x).setWidth 4) := by
  simp only [State.withKey, if_pos h]

theorem State.withKey_of_lt {x : Nibble} {k : Nibble → Result} (h : 0xF < (s.getV x).toNat) :
    s.withKey x k = .fault (.keyRange s.op (s.getV x)) := by
  simp only [State.withKey, if_neg (Nat.not_le.2 h), State.raise]

/-- A key check answers a next state only where V[x] names a key (45_keys_timers.md R256). -/
theorem State.withKey_next {x : Nibble} {k : Nibble → Result} {t : State}
    (h : s.withKey x k = .next t) : (s.getV x).toNat ≤ 0xF ∧ k ((s.getV x).setWidth 4) = .next t := by
  simp only [State.withKey] at h
  split at h
  · exact ⟨‹_›, h⟩
  · simp [State.raise] at h

theorem State.withExt_true {k : Result} (h : s.cfg.extStd = true) : s.withExt k = k := by
  simp only [State.withExt, if_pos h]

theorem State.withExt_false {k : Result} (h : s.cfg.extStd = false) :
    s.withExt k = .fault (.unsupportedOpcode s.op) := by
  simp [State.withExt, h, State.raise]

/-- An EXT_STD instruction answers a next state only on a core with EXT_STD (30_encoding.md R100). -/
theorem State.withExt_next {k : Result} {t : State} (h : s.withExt k = .next t) :
    s.cfg.extStd = true ∧ k = .next t := by
  simp only [State.withExt] at h
  split at h
  · exact ⟨‹_›, h⟩
  · simp [State.raise] at h

/-- The faults of a check of EXT_STD: its own, or those of what it guards (30_encoding.md R101). -/
theorem State.withExt_fault {k : Result} {f : Fault} (h : s.withExt k = .fault f) :
    (f = .unsupportedOpcode s.op ∧ s.cfg.extStd = false) ∨ (s.cfg.extStd = true ∧ k = .fault f) := by
  simp only [State.withExt] at h
  split at h
  · exact .inr ⟨‹_›, h⟩
  · rename_i he
    simp only [State.raise, Host.Outcome.fault.injEq] at h
    exact .inl ⟨h.symm, by simpa using he⟩

/-- The faults of a key check: its own, or those of what it guards (45_keys_timers.md R256). -/
theorem State.withKey_fault {x : Nibble} {k : Nibble → Result} {f : Fault} (h : s.withKey x k = .fault f) :
    (∃ q, k q = .fault f) ∨ (f = .keyRange s.op (s.getV x) ∧ 0xF < (s.getV x).toNat) := by
  simp only [State.withKey] at h
  split at h
  · exact .inl ⟨_, h⟩
  · simp only [State.raise, Host.Outcome.fault.injEq] at h
    exact .inr ⟨h.symm, by omega⟩

/-! ### The Cycle -/

theorem State.fetch_of_lt (h : s.pc.toNat < 0xFFF) :
    s.fetch = .ok (wordOfBytes (s.readByte s.pc.toNat) (s.readByte (s.pc.toNat + 1))) := by
  simp only [State.fetch, if_neg (Nat.not_le.2 h)]

theorem State.fetch_of_le (h : 0xFFF ≤ s.pc.toNat) : s.fetch = .error (.fetchRange s.pc) := by
  simp only [State.fetch, if_pos h]

theorem State.fetch_ok {w : Word} (h : s.fetch = .ok w) :
    s.pc.toNat < 0xFFF ∧
      w = wordOfBytes (s.readByte s.pc.toNat) (s.readByte (s.pc.toNat + 1)) := by
  simp only [State.fetch] at h
  split at h
  · cases h
  · cases h; exact ⟨by omega, rfl⟩

/-- A fetch reads pc, memory and the configuration, and nothing else. -/
theorem State.fetch_congr {s t : State} (hp : t.pc = s.pc) (hm : t.mem = s.mem) (hc : t.cfg = s.cfg) :
    t.fetch = s.fetch := by
  simp only [State.fetch, hp, State.readByte_congr hm hc]

theorem finish_next {r : Result} {t : State} (h : finish r = .next t) :
    ∃ u, r = .next u ∧ t = u.service := by
  cases r with
  | next u => exact ⟨u, rfl, by simpa [finish] using h.symm⟩
  | fault f => simp [finish] at h
  | refused f => simp [finish] at h

theorem finish_fault {r : Result} {f : Fault} (h : finish r = .fault f) : r = .fault f := by
  cases r with
  | next u => simp [finish] at h
  | fault g => simpa [finish] using h
  | refused g => simp [finish] at h

/-- A Cycle that completes fetched a word, decoded it, executed it, and serviced the timers (R95). -/
theorem cycle_next {t : State} (h : cycle s = .next t) :
    ∃ w i u, s.fetch = .ok w ∧ decode s.cfg.extStd w = .ok i ∧
      exec i (s.beginCycle.setOp w) = .next u ∧ t = u.service := by
  simp only [cycle] at h
  split at h
  · cases h
  · rename_i w hw
    split at h
    · cases h
    · rename_i i hi
      obtain ⟨u, hu, ht⟩ := finish_next h
      exact ⟨w, i, u, hw, hi, hu, ht⟩

/-- A Cycle that faults does so in the fetch, in decode, or in the instruction (60_exceptions.md R279). -/
theorem cycle_fault {f : Fault} (h : cycle s = .fault f) :
    s.fetch = .error f ∨
    (∃ w e, s.fetch = .ok w ∧ decode s.cfg.extStd w = .error e ∧ f = decodeFault w e) ∨
    (∃ w i, s.fetch = .ok w ∧ decode s.cfg.extStd w = .ok i ∧
      exec i (s.beginCycle.setOp w) = .fault f) := by
  simp only [cycle] at h
  split at h
  · rename_i hf; cases h; exact .inl hf
  · rename_i w hw
    split at h
    · rename_i e he; cases h; exact .inr (.inl ⟨w, e, hw, he, rfl⟩)
    · rename_i i hi; exact .inr (.inr ⟨w, i, hw, hi, finish_fault h⟩)

/-- What a faulting Cycle leaves, in every field (60_exceptions.md R270). -/
theorem faulted_eq : faulted s = { s with op := (faulted s).op, events := [], slot := s.slot + 1 } := by
  simp only [faulted]
  split <;> rfl

theorem cycle_of_decoded {w : Word} {i : Instr} (hw : s.fetch = .ok w)
    (hi : decode s.cfg.extStd w = .ok i) : cycle s = finish (exec i (s.beginCycle.setOp w)) := by
  simp only [cycle, hw, hi]

end Sys2Proof.Machine
end

