-- ==== Sys2Proof/Laws/Decode.lean ====
section
/-! SUPPORT. The fields of a word, of a word the encoder builds, and of a masked word. -/

namespace Sys2Proof

/-! ### Fields of built words (30_encoding.md R91, R92) -/

@[simp] theorem fieldF_word4 (f x y n : Nibble) : fieldF (word4 f x y n) = f := by
  ext i hi
  simp only [fieldF, word4, BitVec.getElem_extractLsb', BitVec.getLsbD_append]
  have h1 : ¬ 12 + i < 4 := by omega
  have h2 : ¬ 12 + i - 4 < 4 := by omega
  have h3 : ¬ 12 + i - 4 - 4 < 4 := by omega
  have h4 : 12 + i - 4 - 4 - 4 = i := by omega
  simp [h1, h2, h3, h4, hi]

@[simp] theorem fieldX_word4 (f x y n : Nibble) : fieldX (word4 f x y n) = x := by
  ext i hi
  simp only [fieldX, word4, BitVec.getElem_extractLsb', BitVec.getLsbD_append]
  have h1 : ¬ 8 + i < 4 := by omega
  have h2 : ¬ 8 + i - 4 < 4 := by omega
  have h4 : 8 + i - 4 - 4 = i := by omega
  simp [h1, h2, h4, hi]

@[simp] theorem fieldY_word4 (f x y n : Nibble) : fieldY (word4 f x y n) = y := by
  ext i hi
  simp only [fieldY, word4, BitVec.getElem_extractLsb', BitVec.getLsbD_append]
  have h1 : ¬ 4 + i < 4 := by omega
  have h4 : 4 + i - 4 = i := by omega
  simp [h1, h4, hi]

@[simp] theorem fieldN_word4 (f x y n : Nibble) : fieldN (word4 f x y n) = n := by
  ext i hi
  simp only [fieldN, word4, BitVec.getElem_extractLsb', BitVec.getLsbD_append]
  simp [hi]

@[simp] theorem fieldF_wordXNN (f x : Nibble) (nn : Byte) : fieldF (wordXNN f x nn) = f := by
  ext i hi
  simp only [fieldF, wordXNN, BitVec.getElem_extractLsb', BitVec.getLsbD_append]
  have h1 : ¬ 12 + i < 8 := by omega
  have h2 : ¬ 12 + i - 8 < 4 := by omega
  have h4 : 12 + i - 8 - 4 = i := by omega
  simp [h1, h2, h4, hi]

@[simp] theorem fieldX_wordXNN (f x : Nibble) (nn : Byte) : fieldX (wordXNN f x nn) = x := by
  ext i hi
  simp only [fieldX, wordXNN, BitVec.getElem_extractLsb', BitVec.getLsbD_append]
  have h1 : ¬ 8 + i < 8 := by omega
  have h4 : 8 + i - 8 = i := by omega
  simp [h1, h4, hi]

@[simp] theorem fieldNN_wordXNN (f x : Nibble) (nn : Byte) : fieldNN (wordXNN f x nn) = nn := by
  ext i hi
  simp only [fieldNN, wordXNN, BitVec.getElem_extractLsb', BitVec.getLsbD_append]
  simp [hi]

@[simp] theorem fieldF_wordNNN (f : Nibble) (nnn : Addr) : fieldF (wordNNN f nnn) = f := by
  ext i hi
  simp only [fieldF, wordNNN, BitVec.getElem_extractLsb', BitVec.getLsbD_append]
  have h1 : ¬ 12 + i < 12 := by omega
  have h4 : 12 + i - 12 = i := by omega
  simp [h1, h4, hi]

@[simp] theorem fieldNNN_wordNNN (f : Nibble) (nnn : Addr) : fieldNNN (wordNNN f nnn) = nnn := by
  ext i hi
  simp only [fieldNNN, wordNNN, BitVec.getElem_extractLsb', BitVec.getLsbD_append]
  simp [hi]

@[simp] theorem fieldNN_wordNNN (f : Nibble) (nnn : Addr) :
    fieldNN (wordNNN f nnn) = nnn.extractLsb' 0 8 := by
  ext i hi
  have h1 : i < 12 := by omega
  simp only [fieldNN, wordNNN, BitVec.getElem_extractLsb', BitVec.getLsbD_append]
  simp [h1]

/-! ### Words from their fields -/

theorem word4_fields (w : Word) : word4 (fieldF w) (fieldX w) (fieldY w) (fieldN w) = w := by
  apply BitVec.eq_of_getLsbD_eq
  intro i hi
  simp only [word4, fieldF, fieldX, fieldY, fieldN, BitVec.getLsbD_append, BitVec.getLsbD_extractLsb']
  split
  · rename_i h; simp [h]
  · split
    · rename_i h; rw [show 4 + (i - 4) = i by omega]; simp [h]
    · split
      · rename_i h; rw [show 8 + (i - 4 - 4) = i by omega]; simp [h]
      · rw [show 12 + (i - 4 - 4 - 4) = i by omega]
        have : i - 4 - 4 - 4 < 4 := by omega
        simp [this]

theorem wordXNN_fields (w : Word) : wordXNN (fieldF w) (fieldX w) (fieldNN w) = w := by
  apply BitVec.eq_of_getLsbD_eq
  intro i hi
  simp only [wordXNN, fieldF, fieldX, fieldNN, BitVec.getLsbD_append, BitVec.getLsbD_extractLsb']
  split
  · rename_i h; simp [h]
  · split
    · rename_i h; rw [show 8 + (i - 8) = i by omega]; simp [h]
    · rw [show 12 + (i - 8 - 4) = i by omega]
      have : i - 8 - 4 < 4 := by omega
      simp [this]

theorem wordNNN_fields (w : Word) : wordNNN (fieldF w) (fieldNNN w) = w := by
  apply BitVec.eq_of_getLsbD_eq
  intro i hi
  simp only [wordNNN, fieldF, fieldNNN, BitVec.getLsbD_append, BitVec.getLsbD_extractLsb']
  split
  · rename_i h; simp [h]
  · rw [show 12 + (i - 12) = i by omega]
    have : i - 12 < 4 := by omega
    simp [this]

/-- The low byte's low nibble is N. -/
theorem fieldN_eq (w : Word) : fieldN w = (fieldNN w).extractLsb' 0 4 := by
  ext i hi
  simp [fieldN, fieldNN]

/-! ### Fields of a masked word -/

theorem fieldF_and (w m : Word) : fieldF (w &&& m) = fieldF w &&& fieldF m := by
  ext i hi; simp [fieldF]

theorem fieldX_and (w m : Word) : fieldX (w &&& m) = fieldX w &&& fieldX m := by
  ext i hi; simp [fieldX]

theorem fieldY_and (w m : Word) : fieldY (w &&& m) = fieldY w &&& fieldY m := by
  ext i hi; simp [fieldY]

theorem fieldN_and (w m : Word) : fieldN (w &&& m) = fieldN w &&& fieldN m := by
  ext i hi; simp [fieldN]

theorem fieldNN_and (w m : Word) : fieldNN (w &&& m) = fieldNN w &&& fieldNN m := by
  ext i hi; simp [fieldNN]

/-- The primary key `ins & 0xF000` (R97) is the family nibble. -/
theorem primary_key (w : Word) (f : Nibble) :
    w &&& 0xF000#16 = wordNNN f 0#12 ↔ fieldF w = f := by
  constructor
  · intro h
    have := congrArg fieldF h
    rw [fieldF_and, fieldF_wordNNN, show fieldF 0xF000#16 = BitVec.allOnes 4 by decide,
      BitVec.and_allOnes] at this
    exact this
  · intro h
    rw [← wordNNN_fields (w &&& 0xF000#16), fieldF_and, h]
    have h1 : fieldNNN (w &&& 0xF000#16) = 0#12 := by
      ext i hi
      have : BitVec.getLsbD 0xF000#16 i = false := by
        have : ∀ j : Fin 12, BitVec.getLsbD 0xF000#16 j = false := by decide
        exact this ⟨i, hi⟩
      simp [fieldNNN, this]
    rw [h1, show fieldF 0xF000#16 = BitVec.allOnes 4 by decide, BitVec.and_allOnes]

/-- The keys `ins & 0xF0FF` of the 0x0, 0xE and 0xF families (R98) are the family and the low byte. -/
theorem byte_key (w : Word) (f : Nibble) (nn : Byte) :
    w &&& 0xF0FF#16 = wordXNN f 0#4 nn ↔ fieldF w = f ∧ fieldNN w = nn := by
  constructor
  · intro h
    have h1 := congrArg fieldF h
    have h2 := congrArg fieldNN h
    rw [fieldF_and, fieldF_wordXNN, show fieldF 0xF0FF#16 = BitVec.allOnes 4 by decide,
      BitVec.and_allOnes] at h1
    rw [fieldNN_and, fieldNN_wordXNN, show fieldNN 0xF0FF#16 = BitVec.allOnes 8 by decide,
      BitVec.and_allOnes] at h2
    exact ⟨h1, h2⟩
  · rintro ⟨h1, h2⟩
    rw [← wordXNN_fields (w &&& 0xF0FF#16), fieldF_and, fieldX_and, fieldNN_and, h1, h2,
      show fieldF 0xF0FF#16 = BitVec.allOnes 4 by decide, show fieldX 0xF0FF#16 = 0#4 by decide,
      show fieldNN 0xF0FF#16 = BitVec.allOnes 8 by decide, BitVec.and_allOnes, BitVec.and_allOnes,
      BitVec.and_zero]

/-- The key `ins & 0xF00F` of the 0x8 family (R98) is the family and the low nibble. -/
theorem nibble_key (w : Word) (f n : Nibble) :
    w &&& 0xF00F#16 = word4 f 0#4 0#4 n ↔ fieldF w = f ∧ fieldN w = n := by
  constructor
  · intro h
    have h1 := congrArg fieldF h
    have h2 := congrArg fieldN h
    rw [fieldF_and, fieldF_word4, show fieldF 0xF00F#16 = BitVec.allOnes 4 by decide,
      BitVec.and_allOnes] at h1
    rw [fieldN_and, fieldN_word4, show fieldN 0xF00F#16 = BitVec.allOnes 4 by decide,
      BitVec.and_allOnes] at h2
    exact ⟨h1, h2⟩
  · rintro ⟨h1, h2⟩
    rw [← word4_fields (w &&& 0xF00F#16), fieldF_and, fieldX_and, fieldY_and, fieldN_and, h1, h2,
      show fieldF 0xF00F#16 = BitVec.allOnes 4 by decide, show fieldX 0xF00F#16 = 0#4 by decide,
      show fieldY 0xF00F#16 = 0#4 by decide, show fieldN 0xF00F#16 = BitVec.allOnes 4 by decide,
      BitVec.and_allOnes, BitVec.and_allOnes, BitVec.and_zero, BitVec.and_zero]

/-! ### Bytes (20_memory.md R65) -/

@[simp] theorem wordOfBytes_hi_lo (w : Word) : wordOfBytes (hiByte w) (loByte w) = w := by
  apply BitVec.eq_of_getLsbD_eq
  intro i hi
  simp only [wordOfBytes, hiByte, loByte, BitVec.getLsbD_append, BitVec.getLsbD_extractLsb']
  split
  · rename_i h; simp [h]
  · rw [show 8 + (i - 8) = i by omega]
    have : i - 8 < 8 := by omega
    simp [this]

theorem toNat_wordOfBytes (hi lo : Byte) : (wordOfBytes hi lo).toNat = hi.toNat * 256 + lo.toNat := by
  simp only [wordOfBytes, BitVec.toNat_append]
  rw [← Nat.shiftLeft_add_eq_or_of_lt lo.isLt, Nat.shiftLeft_eq]

end Sys2Proof
end

