-- ==== Sys2Proof/Laws/Display.lean ====
section
/-! SUPPORT. The cells of a sprite, and what drawing them does. -/

namespace Sys2Proof.Machine

/-- The cells of one row: its set bits among the columns looked at (44_display.md R233). -/
theorem mem_rowCells {p : DrawPolicy} {x y : Nat} {b : Byte} {j : Nat} (c n : Nat) :
    j ∈ rowCells p x y b c n ↔
      ∃ k, c ≤ k ∧ k < c + n ∧ b.getLsbD (7 - k) = true ∧ pixAddr p (x + k) y = j := by
  induction n generalizing c with
  | zero =>
    simp only [rowCells, List.not_mem_nil, false_iff]
    rintro ⟨k, h1, h2, -⟩
    omega
  | succ n ih =>
    simp only [rowCells]
    constructor
    · intro h
      split at h
      · rename_i hb
        rcases List.mem_cons.1 h with h | h
        · exact ⟨c, by omega, by omega, hb, h.symm⟩
        · obtain ⟨k, h1, h2, h3⟩ := (ih (c + 1)).1 h
          exact ⟨k, by omega, by omega, h3⟩
      · obtain ⟨k, h1, h2, h3⟩ := (ih (c + 1)).1 h
        exact ⟨k, by omega, by omega, h3⟩
    · rintro ⟨k, h1, h2, h3, h4⟩
      by_cases hk : k = c
      · subst hk; simp [h3, h4]
      · have := (ih (c + 1)).2 ⟨k, by omega, by omega, h3, h4⟩
        split
        · exact List.mem_cons_of_mem _ this
        · exact this

/-- The cells of a sprite: the set bits of its rows. -/
theorem mem_spriteCells {p : DrawPolicy} {x y : Nat} {rows : List Byte} {j : Nat} :
    j ∈ spriteCells p x y rows ↔
      ∃ r c, ∃ b, rows[r]? = some b ∧ c < 8 ∧ b.getLsbD (7 - c) = true ∧
        pixAddr p (x + c) (y + r) = j := by
  induction rows generalizing y with
  | nil => simp [spriteCells]
  | cons b bs ih =>
    simp only [spriteCells, List.mem_append, mem_rowCells, ih]
    constructor
    · rintro (⟨k, -, h2, h3, h4⟩ | ⟨r, c, b', h1, h2, h3, h4⟩)
      · exact ⟨0, k, b, rfl, by omega, h3, h4⟩
      · exact ⟨r + 1, c, b', by simpa using h1, h2, h3, by rw [← h4]; congr 1; omega⟩
    · rintro ⟨r, c, b', h1, h2, h3, h4⟩
      cases r with
      | zero => simp at h1; subst h1; exact .inl ⟨c, by omega, by omega, h3, by simpa using h4⟩
      | succ r =>
        exact .inr ⟨r, c, b', by simpa using h1, h2, h3, by rw [← h4]; congr 1; omega⟩

/-- Drawing distinct cells flips exactly them. -/
theorem blit_cell {cells : List Nat} (hn : cells.Nodup) (hb : ∀ j ∈ cells, j < 2048)
    (g : Frame) (h : Bool) (j : Nat) :
    (blit cells (g, h)).1.cell j = (g.cell j ^^ decide (j ∈ cells)) := by
  induction cells generalizing g h with
  | nil => simp [blit]
  | cons k ks ih =>
    rw [List.nodup_cons] at hn
    simp only [blit, ih hn.2 (fun j hj => hb j (List.mem_cons_of_mem _ hj)),
      Frame.cell_flip _ _ _ (hb k List.mem_cons_self), List.mem_cons]
    by_cases hk : j = k
    · subst hk; simp [hn.1]
    · simp [hk]

/-- Drawing distinct cells hits when one of them was lit before. -/
theorem blit_hit {cells : List Nat} (hn : cells.Nodup) (hb : ∀ j ∈ cells, j < 2048)
    (g : Frame) (h : Bool) :
    (blit cells (g, h)).2 = true ↔ h = true ∨ ∃ j ∈ cells, g.cell j = true := by
  induction cells generalizing g h with
  | nil => simp [blit]
  | cons k ks ih =>
    rw [List.nodup_cons] at hn
    simp only [blit, ih hn.2 (fun j hj => hb j (List.mem_cons_of_mem _ hj)), Bool.or_eq_true,
      List.exists_mem_cons_iff, or_assoc]
    have : (∃ j ∈ ks, (g.flip k).cell j = true) ↔ ∃ j ∈ ks, g.cell j = true := by
      refine exists_congr fun j => and_congr_right fun hj => ?_
      have hjk : j ≠ k := fun e => hn.1 (e ▸ hj)
      simp [Frame.cell_flip _ _ _ (hb k List.mem_cons_self), hjk]
    rw [this]

/-- DRW answers a next state only with its rows in RAM and no cell outside the framebuffer, and then it
draws (R233). -/
theorem execDrw_next {x y n : Nibble} {s t : State} (h : execDrw x y n s = .next t) :
    (n.toNat = 0 ∨ s.base + n.toNat ≤ memSize) ∧
      drawOutside s.cfg.drawPolicy (s.drwCells x y n) = none ∧
      t = (s.drawCells (s.drwCells x y n)).advance := by
  obtain ⟨hr, h⟩ := s.withRange_next h
  split at h
  · simp [State.raise] at h
  · cases h
    exact ⟨hr, ‹_›, rfl⟩

end Sys2Proof.Machine
end

