-- ==== Sys2Proof/Laws/PerInstr.lean ====
section
/-! SUPPORT. Per instruction: its encoding selects a row of the opcode table (30_encoding.md R109) that has
the instruction's EXT_STD mark and reads every operand back. -/

namespace Sys2Proof.Laws.TableRow

/-- The encoding of a well-formed instruction selects a row of the table, of the same EXT_STD mark, whose
fields give the instruction back. -/
def Statement (i : Instr) : Prop :=
  i.wf = true → ∃ r ∈ opcodeTable, encode i &&& r.mask = r.pat ∧ r.ext = i.isExt ∧ r.build (encode i) = i

/-- A row of the table by its number. -/
theorem of_row {i : Instr} (k : Nat) (h : k < opcodeTable.length)
    (hk : encode i &&& opcodeTable[k].mask = opcodeTable[k].pat) (he : opcodeTable[k].ext = i.isExt)
    (hb : opcodeTable[k].build (encode i) = i) : Statement i :=
  fun _ => ⟨opcodeTable[k], List.getElem_mem h, hk, he, hb⟩

theorem cls : Statement .cls :=
  of_row 0 (by decide) (by decide) rfl rfl

theorem ret : Statement .ret :=
  of_row 1 (by decide) (by decide) rfl rfl

theorem sys (nnn : Addr) : Statement (.sys nnn) :=
  of_row 2 (by decide) ((primary_key _ 0x0#4).2 (by simp [encode])) rfl
    (by simp [opcodeTable, opcodeRowsLow, opcodeRowsMid, opcodeRowsHigh, encode])

theorem jp (nnn : Addr) : Statement (.jp nnn) :=
  of_row 3 (by decide) ((primary_key _ 0x1#4).2 (by simp [encode])) rfl
    (by simp [opcodeTable, opcodeRowsLow, opcodeRowsMid, opcodeRowsHigh, encode])

theorem call (nnn : Addr) : Statement (.call nnn) :=
  of_row 4 (by decide) ((primary_key _ 0x2#4).2 (by simp [encode])) rfl
    (by simp [opcodeTable, opcodeRowsLow, opcodeRowsMid, opcodeRowsHigh, encode])

theorem seImm (x : Nibble) (nn : Byte) : Statement (.seImm x nn) :=
  of_row 5 (by decide) ((primary_key _ 0x3#4).2 (by simp [encode])) rfl
    (by simp [opcodeTable, opcodeRowsLow, opcodeRowsMid, opcodeRowsHigh, encode])

theorem sneImm (x : Nibble) (nn : Byte) : Statement (.sneImm x nn) :=
  of_row 6 (by decide) ((primary_key _ 0x4#4).2 (by simp [encode])) rfl
    (by simp [opcodeTable, opcodeRowsLow, opcodeRowsMid, opcodeRowsHigh, encode])

theorem seReg (x y : Nibble) : Statement (.seReg x y) :=
  of_row 7 (by decide) ((primary_key _ 0x5#4).2 (by simp [encode])) rfl
    (by simp [opcodeTable, opcodeRowsLow, opcodeRowsMid, opcodeRowsHigh, encode])

theorem ldImm (x : Nibble) (nn : Byte) : Statement (.ldImm x nn) :=
  of_row 8 (by decide) ((primary_key _ 0x6#4).2 (by simp [encode])) rfl
    (by simp [opcodeTable, opcodeRowsLow, opcodeRowsMid, opcodeRowsHigh, encode])

theorem addImm (x : Nibble) (nn : Byte) : Statement (.addImm x nn) :=
  of_row 9 (by decide) ((primary_key _ 0x7#4).2 (by simp [encode])) rfl
    (by simp [opcodeTable, opcodeRowsLow, opcodeRowsMid, opcodeRowsHigh, encode])

theorem ldReg (x y : Nibble) : Statement (.ldReg x y) :=
  of_row 10 (by decide) ((nibble_key _ 0x8#4 0x0#4).2 (by simp [encode])) rfl
    (by simp [opcodeTable, opcodeRowsLow, opcodeRowsMid, opcodeRowsHigh, encode])

theorem orReg (x y : Nibble) : Statement (.orReg x y) :=
  of_row 11 (by decide) ((nibble_key _ 0x8#4 0x1#4).2 (by simp [encode])) rfl
    (by simp [opcodeTable, opcodeRowsLow, opcodeRowsMid, opcodeRowsHigh, encode])

theorem andReg (x y : Nibble) : Statement (.andReg x y) :=
  of_row 12 (by decide) ((nibble_key _ 0x8#4 0x2#4).2 (by simp [encode])) rfl
    (by simp [opcodeTable, opcodeRowsLow, opcodeRowsMid, opcodeRowsHigh, encode])

theorem xorReg (x y : Nibble) : Statement (.xorReg x y) :=
  of_row 13 (by decide) ((nibble_key _ 0x8#4 0x3#4).2 (by simp [encode])) rfl
    (by simp [opcodeTable, opcodeRowsLow, opcodeRowsMid, opcodeRowsHigh, encode])

theorem addReg (x y : Nibble) : Statement (.addReg x y) :=
  of_row 14 (by decide) ((nibble_key _ 0x8#4 0x4#4).2 (by simp [encode])) rfl
    (by simp [opcodeTable, opcodeRowsLow, opcodeRowsMid, opcodeRowsHigh, encode])

theorem subReg (x y : Nibble) : Statement (.subReg x y) :=
  of_row 15 (by decide) ((nibble_key _ 0x8#4 0x5#4).2 (by simp [encode])) rfl
    (by simp [opcodeTable, opcodeRowsLow, opcodeRowsMid, opcodeRowsHigh, encode])

theorem shr (x : Nibble) : Statement (.shr x) :=
  of_row 16 (by decide) ((nibble_key _ 0x8#4 0x6#4).2 (by simp [encode])) rfl
    (by simp [opcodeTable, opcodeRowsLow, opcodeRowsMid, opcodeRowsHigh, encode])

theorem subnReg (x y : Nibble) : Statement (.subnReg x y) :=
  of_row 17 (by decide) ((nibble_key _ 0x8#4 0x7#4).2 (by simp [encode])) rfl
    (by simp [opcodeTable, opcodeRowsLow, opcodeRowsMid, opcodeRowsHigh, encode])

theorem shl (x : Nibble) : Statement (.shl x) :=
  of_row 18 (by decide) ((nibble_key _ 0x8#4 0xE#4).2 (by simp [encode])) rfl
    (by simp [opcodeTable, opcodeRowsLow, opcodeRowsMid, opcodeRowsHigh, encode])

theorem sneReg (x y : Nibble) : Statement (.sneReg x y) :=
  of_row 19 (by decide) ((primary_key _ 0x9#4).2 (by simp [encode])) rfl
    (by simp [opcodeTable, opcodeRowsLow, opcodeRowsMid, opcodeRowsHigh, encode])

theorem ldI (nnn : Addr) : Statement (.ldI nnn) :=
  of_row 20 (by decide) ((primary_key _ 0xA#4).2 (by simp [encode])) rfl
    (by simp [opcodeTable, opcodeRowsLow, opcodeRowsMid, opcodeRowsHigh, encode])

theorem jpV0 (nnn : Addr) : Statement (.jpV0 nnn) :=
  of_row 21 (by decide) ((primary_key _ 0xB#4).2 (by simp [encode])) rfl
    (by simp [opcodeTable, opcodeRowsLow, opcodeRowsMid, opcodeRowsHigh, encode])

theorem rnd (x : Nibble) (nn : Byte) : Statement (.rnd x nn) :=
  of_row 22 (by decide) ((primary_key _ 0xC#4).2 (by simp [encode])) rfl
    (by simp [opcodeTable, opcodeRowsLow, opcodeRowsMid, opcodeRowsHigh, encode])

theorem drw (x y n : Nibble) : Statement (.drw x y n) :=
  of_row 23 (by decide) ((primary_key _ 0xD#4).2 (by simp [encode])) rfl
    (by simp [opcodeTable, opcodeRowsLow, opcodeRowsMid, opcodeRowsHigh, encode])

theorem skp (x : Nibble) : Statement (.skp x) :=
  of_row 24 (by decide) ((byte_key _ 0xE#4 0x9E#8).2 (by simp [encode])) rfl
    (by simp [opcodeTable, opcodeRowsLow, opcodeRowsMid, opcodeRowsHigh, encode])

theorem sknp (x : Nibble) : Statement (.sknp x) :=
  of_row 25 (by decide) ((byte_key _ 0xE#4 0xA1#8).2 (by simp [encode])) rfl
    (by simp [opcodeTable, opcodeRowsLow, opcodeRowsMid, opcodeRowsHigh, encode])

theorem ldVxDt (x : Nibble) : Statement (.ldVxDt x) :=
  of_row 26 (by decide) ((byte_key _ 0xF#4 0x07#8).2 (by simp [encode])) rfl
    (by simp [opcodeTable, opcodeRowsLow, opcodeRowsMid, opcodeRowsHigh, encode])

theorem ldVxK (x : Nibble) : Statement (.ldVxK x) :=
  of_row 27 (by decide) ((byte_key _ 0xF#4 0x0A#8).2 (by simp [encode])) rfl
    (by simp [opcodeTable, opcodeRowsLow, opcodeRowsMid, opcodeRowsHigh, encode])

theorem ldDtVx (x : Nibble) : Statement (.ldDtVx x) :=
  of_row 28 (by decide) ((byte_key _ 0xF#4 0x15#8).2 (by simp [encode])) rfl
    (by simp [opcodeTable, opcodeRowsLow, opcodeRowsMid, opcodeRowsHigh, encode])

theorem ldStVx (x : Nibble) : Statement (.ldStVx x) :=
  of_row 29 (by decide) ((byte_key _ 0xF#4 0x18#8).2 (by simp [encode])) rfl
    (by simp [opcodeTable, opcodeRowsLow, opcodeRowsMid, opcodeRowsHigh, encode])

theorem addI (x : Nibble) : Statement (.addI x) :=
  of_row 30 (by decide) ((byte_key _ 0xF#4 0x1E#8).2 (by simp [encode])) rfl
    (by simp [opcodeTable, opcodeRowsLow, opcodeRowsMid, opcodeRowsHigh, encode])

theorem ldF (x : Nibble) : Statement (.ldF x) :=
  of_row 31 (by decide) ((byte_key _ 0xF#4 0x29#8).2 (by simp [encode])) rfl
    (by simp [opcodeTable, opcodeRowsLow, opcodeRowsMid, opcodeRowsHigh, encode])

theorem ldB (x : Nibble) : Statement (.ldB x) :=
  of_row 32 (by decide) ((byte_key _ 0xF#4 0x33#8).2 (by simp [encode])) rfl
    (by simp [opcodeTable, opcodeRowsLow, opcodeRowsMid, opcodeRowsHigh, encode])

theorem ldMemVx (x : Nibble) : Statement (.ldMemVx x) :=
  of_row 33 (by decide) ((byte_key _ 0xF#4 0x55#8).2 (by simp [encode])) rfl
    (by simp [opcodeTable, opcodeRowsLow, opcodeRowsMid, opcodeRowsHigh, encode])

theorem ldVxMem (x : Nibble) : Statement (.ldVxMem x) :=
  of_row 34 (by decide) ((byte_key _ 0xF#4 0x65#8).2 (by simp [encode])) rfl
    (by simp [opcodeTable, opcodeRowsLow, opcodeRowsMid, opcodeRowsHigh, encode])

end Sys2Proof.Laws.TableRow
end

