-- ==== Sys2Proof/Tests/Slice0.lean ====
section
/-! SUPPORT. Tests. Every expected result is a vector of spec/95_test_vectors.md (named by its number) or
worked by hand from the rule named. The `witness_` theorems show, for each statement with hypotheses, a
state and operands that meet them. -/

namespace Sys2Proof.Tests

open Sys2Proof Sys2Proof.Machine

/-! ### Small states -/

/-- The reset state with these registers. -/
def regs (l : List (Nibble × Byte)) : State := l.foldl (fun s p => s.setV p.1 p.2) State.reset

/-- The same core with EXT_STD. -/
def ext (s : State) : State := { s with cfg := { s.cfg with extStd := true } }

/-- The same core with DRAW_POLICY = LINEAR. -/
def linear (s : State) : State := { s with cfg := { s.cfg with drawPolicy := .linear } }

/-- The state with a word at pc. -/
def code (s : State) (w : Word) : State := s.writeBytes s.pc.toNat [hiByte w, loByte w]

/-- One Cycle of the state with a word at pc. -/
def run (w : Word) (s : State) : State × Reply := move .cycle (code s w)

/-- A state with I and these bytes from I on. -/
def data (s : State) (i : Word) (bs : List Byte) : State := (s.setI i).writeBytes i.toNat bs

/-- The state with one lit cell. -/
def lit (s : State) (j : Nat) : State := s.setGfx (s.gfx.flip j)

/-- The state with these keys pressed. -/
def keys (s : State) (ks : List Nat) : State := ks.foldl (fun s k => (s.hostKeyDown k).1) s

/-- Whether a result is a next state. -/
def completed : Result → Bool
  | .next _ => true
  | _ => false

/-- The next state of a result that has one. -/
def after : Result → State
  | .next t => t
  | _ => State.reset

theorem eq_next : ∀ {r : Result}, completed r = true → r = .next (after r)
  | .next _, _ => rfl

/-! ### Well-formedness -/

/-- The term `.sys 0x0E0` is refused: that word is CLS (30_encoding.md R102). -/
theorem test_wf_refuses_sys_cls : Instr.wf (.sys 0x0E0#12) = false := by decide

/-- The term `.sys 0x0EE` is refused: that word is RET (R102). -/
theorem test_wf_refuses_sys_ret : Instr.wf (.sys 0x0EE#12) = false := by decide

/-- A row of R100 is refused on a core without EXT_STD, and is well-formed on one with it. -/
theorem test_wfIn_refuses_ext :
    Instr.wfIn false (.shl 0x1#4) = false ∧ Instr.wfIn true (.shl 0x1#4) = true := by decide

/-! ### Decoding: one word for every constructor, written out from 30_encoding.md R99, R100 -/

theorem test_decode_control :
    decode false 0b0000000011100000#16 = .ok .cls ∧
    decode false 0b0000000011101110#16 = .ok .ret ∧
    decode false 0b0000000100100011#16 = .ok (.sys 0x123#12) ∧
    decode false 0b0001101010111100#16 = .ok (.jp 0xABC#12) ∧
    decode false 0b0010001100000000#16 = .ok (.call 0x300#12) ∧
    decode false 0b0011000000010010#16 = .ok (.seImm 0x0#4 0x12#8) ∧
    decode false 0b0100000000010011#16 = .ok (.sneImm 0x0#4 0x13#8) ∧
    decode false 0b0101001110000000#16 = .ok (.seReg 0x3#4 0x8#4) ∧
    decode false 0b1001001110000000#16 = .ok (.sneReg 0x3#4 0x8#4) ∧
    decode true 0b1011001100000000#16 = .ok (.jpV0 0x300#12) := by decide

theorem test_decode_alu :
    decode false 0b0110101000101011#16 = .ok (.ldImm 0xA#4 0x2B#8) ∧
    decode false 0b0111001100000001#16 = .ok (.addImm 0x3#4 0x01#8) ∧
    decode false 0b1000000100100000#16 = .ok (.ldReg 0x1#4 0x2#4) ∧
    decode true 0b1000000100100001#16 = .ok (.orReg 0x1#4 0x2#4) ∧
    decode false 0b1000000100100010#16 = .ok (.andReg 0x1#4 0x2#4) ∧
    decode true 0b1000000100100011#16 = .ok (.xorReg 0x1#4 0x2#4) ∧
    decode false 0b1000000100100100#16 = .ok (.addReg 0x1#4 0x2#4) ∧
    decode false 0b1000000100100101#16 = .ok (.subReg 0x1#4 0x2#4) ∧
    decode true 0b1000000100100110#16 = .ok (.shr 0x1#4) ∧
    decode true 0b1000000100100111#16 = .ok (.subnReg 0x1#4 0x2#4) ∧
    decode true 0b1000001000111110#16 = .ok (.shl 0x2#4) ∧
    decode false 0b1100001100001111#16 = .ok (.rnd 0x3#4 0x0F#8) := by decide

theorem test_decode_memory_display :
    decode false 0b1010001011110000#16 = .ok (.ldI 0x2F0#12) ∧
    decode true 0b1111000100011110#16 = .ok (.addI 0x1#4) ∧
    decode false 0b1111001000101001#16 = .ok (.ldF 0x2#4) ∧
    decode false 0b1111010000110011#16 = .ok (.ldB 0x4#4) ∧
    decode true 0b1111000101010101#16 = .ok (.ldMemVx 0x1#4) ∧
    decode false 0b1111001001100101#16 = .ok (.ldVxMem 0x2#4) ∧
    decode false 0b1101001101000001#16 = .ok (.drw 0x3#4 0x4#4 0x1#4) := by decide

theorem test_decode_keys_timers :
    decode true 0b1110000110011110#16 = .ok (.skp 0x1#4) ∧
    decode false 0b1110000110100001#16 = .ok (.sknp 0x1#4) ∧
    decode false 0b1111001100000111#16 = .ok (.ldVxDt 0x3#4) ∧
    decode true 0b1111001000001010#16 = .ok (.ldVxK 0x2#4) ∧
    decode false 0b1111000000010101#16 = .ok (.ldDtVx 0x0#4) ∧
    decode false 0b1111000000011000#16 = .ok (.ldStVx 0x0#4) := by decide

/-- Vectors S1, E1, E3, E5: the ten EXT_STD rows on a core without it. -/
theorem test_decode_unsupported_ext :
    decode false 0x8001#16 = .error (.unsupported 0x8001#16) ∧
    decode false 0x8003#16 = .error (.unsupported 0x8003#16) ∧
    decode false 0x8006#16 = .error (.unsupported 0x8006#16) ∧
    decode false 0x8007#16 = .error (.unsupported 0x8007#16) ∧
    decode false 0x800E#16 = .error (.unsupported 0x800E#16) ∧
    decode false 0xB123#16 = .error (.unsupported 0xB123#16) ∧
    decode false 0xE09E#16 = .error (.unsupported 0xE09E#16) ∧
    decode false 0xF00A#16 = .error (.unsupported 0xF00A#16) ∧
    decode false 0xF01E#16 = .error (.unsupported 0xF01E#16) ∧
    decode false 0xF055#16 = .error (.unsupported 0xF055#16) := by decide

/-- Vectors E2, E4, E6: words unsupported on every core. -/
theorem test_decode_unsupported :
    decode true 0x8008#16 = .error (.unsupported 0x8008#16) ∧
    decode true 0x800F#16 = .error (.unsupported 0x800F#16) ∧
    decode true 0xE0FF#16 = .error (.unsupported 0xE0FF#16) ∧
    decode true 0xF000#16 = .error (.unsupported 0xF000#16) ∧
    decode true 0xF0FF#16 = .error (.unsupported 0xF0FF#16) ∧
    decode false 0x8008#16 = .error (.unsupported 0x8008#16) ∧
    decode false 0xE0FF#16 = .error (.unsupported 0xE0FF#16) := by decide

/-- The bits of R103 are ignored: vectors E8 to E12. -/
theorem test_decode_ignored :
    decode false 0x01E0#16 = .ok .cls ∧ decode false 0x0AEE#16 = .ok .ret ∧
    decode false 0x5017#16 = .ok (.seReg 0x0#4 0x1#4) ∧
    decode false 0x901F#16 = .ok (.sneReg 0x0#4 0x1#4) := by decide

/-- Fewer than two bytes are no instruction; what follows two bytes is left over (R90). -/
theorem test_decode_bytes :
    decodeBytes false [0x12#8] = .error .truncated ∧
    decodeBytes false [0x12#8, 0x34#8, 0x56#8] = .ok (.jp 0x234#12, [0x56#8]) := by decide

/-- No word selects two rows of the table, but for CLS and RET, which stand before SYS (R102, R109): where
two rows agree on the bits that both masks keep, the second is SYS. -/
theorem test_table_disjoint :
    opcodeTable.Pairwise (fun a b =>
      a.pat &&& b.mask ≠ b.pat &&& a.mask ∨ (b.mask = 0xF000#16 ∧ b.pat = 0x0000#16)) := by decide +kernel

/-- The table's row for a word, as the host asks for it: a second byte at the higher address (R65). -/
theorem test_decodeTableWord :
    decodeTableWord 16 0xD345 = some (.drw 0x3#4 0x4#4 0x5#4) ∧ decodeTableWord 16 0x8008 = none := by
  decide

/-- A word placed where the machine fetches is what it fetches, at reset. -/
theorem test_withFetchWord :
    (State.reset.withFetchWord 16 0x6A2B).fetch = .ok 0x6A2B#16 ∧
    (State.reset.withFetchWord 16 0xF155).cfg.extStd = true ∧
    (State.reset.withFetchWord 16 0x6A2B).cfg = State.reset.cfg := by decide

/-! ### Control flow -/

/-- E8, D1: CLS clears, keeps VF, emits nothing. -/
theorem test_cls : let r := run 0x01E0#16 (lit (regs [(0xF#4, 0x33#8)]) 5)
    r.1.gfx.cell 5 = false ∧ r.1.getV 0xF#4 = 0x33#8 ∧ r.1.pc = 0x202#16 ∧ r.2 = .ok [] := by decide

/-- F7: RET. -/
theorem test_ret : let r := run 0x00EE#16 (State.reset.push 0x200#16)
    r.1.pc = 0x202#16 ∧ r.1.sp = 0 ∧ r.1.stack[1] = 0x200#16 := by decide

/-- F8, T5: RET with SP = 0; the faulting Cycle keeps pc, TP and the timers. -/
theorem test_ret_underflow :
    let r := run 0x00EE#16 { State.reset with tp := true, dt := 0x02#8, st := 0x01#8 }
    r.2 = .fault (.stackUnderflow 0x00EE#16 0x200#16) ∧ r.1.op = 0x00EE#16 ∧ r.1.pc = 0x200#16 ∧
    r.1.tp = true ∧ r.1.dt = 0x02#8 ∧ r.1.st = 0x01#8 := by decide

/-- E7: SYS. -/
theorem test_sys : (run 0x0123#16 State.reset).2 = .fault (.unimplementedOpcode 0x0123#16) := by decide

/-- F2, P5: JP to an odd address, and the word's bytes in big-endian order. -/
theorem test_jp :
    (run 0x1201#16 State.reset).1.pc = 0x201#16 ∧
    (move .cycle (State.reset.writeBytes 0x200 [0x12#8, 0x34#8])).1.pc = 0x234#16 := by decide

/-- F5: CALL at SP = 14. -/
theorem test_call : let r := run 0x2400#16 { State.reset with pc := 0x300#16, sp := 14 }
    r.1.sp = 15 ∧ r.1.stack[15] = 0x300#16 ∧ r.1.pc = 0x400#16 := by decide

/-- F6: CALL at SP = 15. -/
theorem test_call_overflow : let r := run 0x2500#16 { State.reset with pc := 0x400#16, sp := 15 }
    r.2 = .fault (.stackOverflow 0x2500#16 0x400#16) ∧ r.1.sp = 15 := by decide

/-- F10, F11: SE Vx, NN. -/
theorem test_seImm :
    (run 0x3012#16 (regs [(0x0#4, 0x12#8)])).1.pc = 0x204#16 ∧
    (run 0x3013#16 (regs [(0x0#4, 0x12#8)])).1.pc = 0x202#16 := by decide

/-- F18: a skip past the top of memory. -/
theorem test_skip_past_top : let r := run 0x3000#16 { State.reset with pc := 0xFFC#16 }
    r.1.pc = 0x1000#16 ∧ r.1.fetch = .error (.fetchRange 0x1000#16) := by decide

/-- F12, F13: SNE Vx, NN. -/
theorem test_sneImm :
    (run 0x4012#16 (regs [(0x0#4, 0x12#8)])).1.pc = 0x202#16 ∧
    (run 0x4013#16 (regs [(0x0#4, 0x12#8)])).1.pc = 0x204#16 := by decide

/-- E10, F15: SE Vx, Vy. -/
theorem test_seReg :
    (run 0x5017#16 (regs [(0x0#4, 0x07#8), (0x1#4, 0x07#8)])).1.pc = 0x204#16 ∧
    (run 0x5010#16 (regs [(0x0#4, 0x03#8), (0x1#4, 0x04#8)])).1.pc = 0x202#16 := by decide

/-- E11, F16: SNE Vx, Vy. -/
theorem test_sneReg :
    (run 0x901F#16 (regs [(0x0#4, 0x07#8), (0x1#4, 0x08#8)])).1.pc = 0x204#16 ∧
    (run 0x9010#16 (regs [(0x0#4, 0x03#8), (0x1#4, 0x03#8)])).1.pc = 0x202#16 := by decide

/-- F20: JP V0 past the top of memory. -/
theorem test_jpV0 : (run 0xBFFF#16 (ext (regs [(0x0#4, 0xFF#8)]))).1.pc = 0x10FE#16 := by decide

/-- F21: JP V0 without EXT_STD. -/
theorem test_jpV0_unsupported :
    (run 0xB300#16 State.reset).2 = .fault (.unsupportedOpcode 0xB300#16) := by decide

/-! ### Registers and ALU -/

/-- P1: the last word of memory. -/
theorem test_ldImm : let r := run 0x6012#16 { State.reset with pc := 0xFFE#16 }
    r.1.getV 0x0#4 = 0x12#8 ∧ r.1.pc = 0x1000#16 := by decide

/-- P4: an instruction at an odd address. -/
theorem test_odd_pc : let r := run 0x6A2B#16 { State.reset with pc := 0x201#16 }
    r.1.getV 0xA#4 = 0x2B#8 ∧ r.1.pc = 0x203#16 := by decide

/-- A3, A4: ADD Vx, NN writes no flag. -/
theorem test_addImm :
    (run 0x7003#16 (regs [(0x0#4, 0xFE#8), (0xF#4, 0x5A#8)])).1.v =
      (regs [(0x0#4, 0x01#8), (0xF#4, 0x5A#8)]).v ∧
    (run 0x7F01#16 (regs [(0xF#4, 0xFF#8)])).1.getV 0xF#4 = 0x00#8 := by decide

/-- A5: LD Vx, Vy. -/
theorem test_ldReg : (run 0x8010#16 (regs [(0x1#4, 0x33#8)])).1.getV 0x0#4 = 0x33#8 := by decide

/-- A20: OR keeps VF. -/
theorem test_orReg :
    (run 0x8011#16 (ext (regs [(0x0#4, 0xF0#8), (0x1#4, 0x0F#8), (0xF#4, 0x77#8)]))).1.v =
      (regs [(0x0#4, 0xFF#8), (0x1#4, 0x0F#8), (0xF#4, 0x77#8)]).v := by decide

/-- A6: AND keeps VF. -/
theorem test_andReg :
    (run 0x8012#16 (regs [(0x0#4, 0xF0#8), (0x1#4, 0x3C#8), (0xF#4, 0x77#8)])).1.v =
      (regs [(0x0#4, 0x30#8), (0x1#4, 0x3C#8), (0xF#4, 0x77#8)]).v := by decide

/-- A21: XOR. -/
theorem test_xorReg :
    (run 0x8013#16 (ext (regs [(0x0#4, 0xF0#8), (0x1#4, 0x3C#8)]))).1.getV 0x0#4 = 0xCC#8 := by decide

/-- A9, A11: ADD at the carry's edge, and with X = F. -/
theorem test_addReg :
    (run 0x8014#16 (regs [(0x0#4, 0x7F#8), (0x1#4, 0x80#8)])).1.v =
      (regs [(0x0#4, 0xFF#8), (0x1#4, 0x80#8)]).v ∧
    (run 0x8F14#16 (regs [(0xF#4, 0x10#8), (0x1#4, 0xF5#8)])).1.getV 0xF#4 = 0x01#8 := by decide

/-- A10, A12: ADD with X = Y, and with Y = F reading the old VF. -/
theorem test_addReg_alias :
    (run 0x8224#16 (regs [(0x2#4, 0x80#8)])).1.v = (regs [(0xF#4, 0x01#8)]).v ∧
    (run 0x80F4#16 (regs [(0x0#4, 0x01#8), (0xF#4, 0xFF#8)])).1.v = (regs [(0xF#4, 0x01#8)]).v := by
  decide

/-- A13, A14: SUB at the borrow's edge. -/
theorem test_subReg :
    (run 0x8015#16 (regs [(0x0#4, 0x05#8), (0x1#4, 0x05#8)])).1.getV 0xF#4 = 0x01#8 ∧
    (run 0x8015#16 (regs [(0x1#4, 0x01#8)])).1.v = (regs [(0x0#4, 0xFF#8), (0x1#4, 0x01#8)]).v := by
  decide

/-- A16: SUB with X = F. -/
theorem test_subReg_vf :
    (run 0x8F15#16 (regs [(0xF#4, 0x05#8), (0x1#4, 0x01#8)])).1.getV 0xF#4 = 0x01#8 := by decide

/-- A22, A24: SHR, and with X = F. -/
theorem test_shr :
    (run 0x8106#16 (ext (regs [(0x1#4, 0x05#8)]))).1.v = (regs [(0x1#4, 0x02#8), (0xF#4, 0x01#8)]).v ∧
    (run 0x8F06#16 (ext (regs [(0xF#4, 0x03#8)]))).1.getV 0xF#4 = 0x01#8 := by decide

/-- A25, A26: SUBN. -/
theorem test_subnReg :
    (run 0x8127#16 (ext (regs [(0x1#4, 0x01#8), (0x2#4, 0x02#8)]))).1.v =
      (regs [(0x1#4, 0x01#8), (0x2#4, 0x02#8), (0xF#4, 0x01#8)]).v ∧
    (run 0x8127#16 (ext (regs [(0x1#4, 0x02#8), (0x2#4, 0x01#8)]))).1.v =
      (regs [(0x1#4, 0xFF#8), (0x2#4, 0x01#8)]).v := by decide

/-- E12, A28: SHL. -/
theorem test_shl :
    (run 0x823E#16 (ext (regs [(0x2#4, 0x81#8)]))).1.v = (regs [(0x2#4, 0x02#8), (0xF#4, 0x01#8)]).v ∧
    (run 0x810E#16 (ext (regs [(0x1#4, 0x40#8)]))).1.v = (regs [(0x1#4, 0x80#8)]).v := by decide

/-- A18: RND with NN = 0, for every value of the random byte. -/
theorem test_rnd (s : State) : (after (exec (.rnd 0x3#4 0x00#8) s)).getV 0x3#4 = 0x00#8 := by
  simp [exec, execRnd, State.result, after]

/-! ### Index register and memory -/

/-- M1: LD I. -/
theorem test_ldI : (run 0xA2F0#16 State.reset).1.i = 0x2F0#16 := by decide

/-- M18, M19: ADD I past RAM and past 2^16. -/
theorem test_addI :
    (run 0xF11E#16 (ext ((regs [(0x1#4, 0x01#8)]).setI 0xFFF#16))).1.i = 0x1000#16 ∧
    (run 0xF01E#16 (ext ((regs [(0x0#4, 0x02#8)]).setI 0xFFFF#16))).1.i = 0x0001#16 := by decide

/-- M2, M4: LD F of a digit, and of a whole byte. -/
theorem test_ldF :
    (run 0xF229#16 (regs [(0x2#4, 0x0A#8)])).1.i = 0x032#16 ∧
    (run 0xF029#16 (regs [(0x0#4, 0xFF#8)])).1.i = 0x4FB#16 := by decide

/-- M8: LD B at the top of memory. -/
theorem test_ldB : let r := run 0xF033#16 ((regs [(0x0#4, 123#8)]).setI 0xFFD#16)
    r.1.readBytes 0xFFC 4 = [0x00#8, 0x01#8, 0x02#8, 0x03#8] ∧ r.1.i = 0xFFD#16 := by decide

/-- M9: LD B one address higher. -/
theorem test_ldB_range : let r := run 0xF033#16 ((regs [(0x0#4, 123#8)]).setI 0xFFE#16)
    r.2 = .fault (.memRange 0xF033#16 0x1000) ∧ r.1.readByte 0xFFE = 0x00#8 := by decide

/-- M16: LD [I], Vx. -/
theorem test_ldMemVx :
    let r := run 0xF155#16 (ext ((regs [(0x0#4, 0x01#8), (0x1#4, 0x02#8), (0x2#4, 0x03#8)]).setI 0x300#16))
    r.1.readBytes 0x300 3 = [0x01#8, 0x02#8, 0x00#8] ∧ r.1.i = 0x300#16 := by decide

/-- M17: LD [I], Vx across the top of memory. -/
theorem test_ldMemVx_range :
    (run 0xF155#16 (ext (State.reset.setI 0xFFF#16))).2 = .fault (.memRange 0xF155#16 0x1000) := by decide

/-- M11: LD Vx, [I]. -/
theorem test_ldVxMem : let r := run 0xF265#16 (data State.reset 0x300#16 [0x02#8, 0x05#8, 0x05#8, 0x09#8])
    r.1.v = (regs [(0x0#4, 0x02#8), (0x1#4, 0x05#8), (0x2#4, 0x05#8)]).v ∧ r.1.i = 0x300#16 := by decide

/-- M15: LD Vx, [I] from beyond memory. -/
theorem test_ldVxMem_range :
    (run 0xF065#16 (State.reset.setI 0x1005#16)).2 = .fault (.memRange 0xF065#16 0x1005) := by decide

/-! ### Display -/

/-- D3, D14, D15: DRW, a collision; coordinates read before VF is cleared; Draw before Beep. -/
theorem test_drw :
    (let r := run 0xD011#16 (lit (data State.reset 0x300#16 [0xC0#8]) 1);
      r.1.gfx.cell 0 = true ∧ r.1.gfx.cell 1 = false ∧ r.1.getV 0xF#4 = 0x01#8 ∧ r.2 = .ok [.draw]) ∧
    (let r := run 0xDF11#16 (data (regs [(0xF#4, 0x05#8), (0x1#4, 0x02#8)]) 0x300#16 [0x80#8]);
      r.1.gfx = Frame.clear.flip 133 ∧ r.1.getV 0xF#4 = 0x00#8) ∧
    (run 0xD010#16 { State.reset with tp := true, st := 0x01#8 }).2 = .ok [.draw, .beep] := by decide

/-- D4, D5, D7, D13: the two policies at the right edge, DRAW_RANGE with the first index, and MEM_RANGE
before it. -/
theorem test_drw_policies :
    (run 0xD011#16 (data (regs [(0x0#4, 62#8)]) 0x300#16 [0xFF#8])).1.gfx.toList.take 2 =
      [0xC00000000000003F#64, 0x0#64] ∧
    (run 0xD011#16 (linear (data (regs [(0x0#4, 62#8)]) 0x300#16 [0xFF#8]))).1.gfx.toList.take 2 =
      [0xC000000000000000#64, 0x3F#64] ∧
    (run 0xD012#16 (linear (data (regs [(0x1#4, 31#8)]) 0x300#16 [0x80#8, 0x80#8]))).2 =
      .fault (.drawRange 0xD012#16 2048) ∧
    (run 0xD013#16 (linear ((regs [(0x1#4, 31#8)]).setI 0xFFE#16))).2 =
      .fault (.memRange 0xD013#16 0x1000) := by decide +kernel

/-! ### Keys and timers -/

/-- K5, K6: SKP. -/
theorem test_skp :
    (run 0xE19E#16 (ext (keys (regs [(0x1#4, 0x05#8)]) [5]))).1.pc = 0x204#16 ∧
    (run 0xE19E#16 (ext (regs [(0x1#4, 0xFF#8)]))).2 = .fault (.keyRange 0xE19E#16 0xFF#8) := by decide

/-- K1, K3: SKNP; any non-zero byte is a pressed key. -/
theorem test_sknp :
    (run 0xE1A1#16 (regs [(0x1#4, 0x05#8)])).1.pc = 0x204#16 ∧
    (run 0xE1A1#16 { regs [(0x1#4, 0x05#8)] with key := State.reset.key.set 5 0x80#8 }).1.pc = 0x202#16 := by
  decide

/-- K4: SKNP with an index out of range. -/
theorem test_sknp_range :
    (run 0xE1A1#16 (regs [(0x1#4, 0x10#8)])).2 = .fault (.keyRange 0xE1A1#16 0x10#8) := by decide

/-- K8: LD Vx, DT reads before the service. -/
theorem test_ldVxDt : let r := run 0xF307#16 { State.reset with dt := 0x1E#8, tp := true }
    r.1.getV 0x3#4 = 0x1E#8 ∧ r.1.dt = 0x1D#8 ∧ r.1.tp = false := by decide

/-- K16: LD Vx, K takes the least pressed key. -/
theorem test_ldVxK : let r := run 0xF20A#16 (ext (keys State.reset [7, 3]))
    r.1.getV 0x2#4 = 0x03#8 ∧ r.1.pc = 0x202#16 := by decide

/-- K15: LD Vx, K waits. -/
theorem test_ldVxK_waits : let r := run 0xF20A#16 (ext (regs [(0x2#4, 0x44#8)]))
    r.1.getV 0x2#4 = 0x44#8 ∧ r.1.pc = 0x200#16 ∧ r.2 = .ok [] := by decide

/-- K9, K10: LD DT, Vx. -/
theorem test_ldDtVx :
    (run 0xF015#16 (regs [(0x0#4, 0x05#8)])).1.dt = 0x05#8 ∧
    (run 0xF015#16 { regs [(0x0#4, 0x05#8)] with tp := true }).1.dt = 0x04#8 := by decide

/-- K13, K14: LD ST, Vx; only the service beeps. -/
theorem test_ldStVx :
    (run 0xF018#16 { regs [(0x0#4, 0x01#8)] with tp := true }).2 = .ok [.beep] ∧
    (run 0xF018#16 { State.reset with st := 0x05#8 }).2 = .ok [] := by decide

/-- T1, T3: the service point floors at zero, and beeps from 1. -/
theorem test_service :
    (run 0x1200#16 { State.reset with tp := true }).2 = .ok [] ∧
    (run 0x1200#16 { State.reset with tp := true, dt := 0x02#8, st := 0x01#8 }).2 = .ok [.beep] ∧
    (run 0x1200#16 { State.reset with tp := true, dt := 0x02#8, st := 0x01#8 }).1.dt = 0x01#8 := by decide

/-! ### Host entry points -/

/-- H2, H3, H4: an empty program, and a second Load. -/
theorem test_load :
    (move (.load []) State.reset).2 = .loaded ∧ (move (.load []) State.reset).1.loaded = true ∧
    (move (.load [0x60#8, 0x12#8]) { State.reset with loaded := true }).2 = .loadRefused := by decide

/-- S12: a program one byte too long. -/
theorem test_load_overflow :
    (move (.load (List.replicate 3585 0x01#8)) State.reset) = (State.reset, .loadOverflow 3585) := by
  have h : State.reset.loaded = false := rfl
  have h2 : maxRom < (List.replicate 3585 0x01#8).length := by rw [List.length_replicate]; decide
  simp only [move, State.hostLoad, h, Bool.false_eq_true, if_false, if_pos h2]
  rw [List.length_replicate]

/-- H5 to H9: PixelSet, KeyDown, KeysClear at the ends of their ranges. -/
theorem test_pixels_and_keys :
    (move (.pixelSet 2047) (lit State.reset 2047)).2 = .pixel true ∧
    (move (.pixelSet 2048) State.reset).2 = .hostRange ∧
    (move (.keyDown 15) State.reset).1.key[15] = 0x01#8 ∧
    (move (.keyDown 16) State.reset).2 = .hostRange ∧
    (move .keysClear (keys State.reset [2, 9])).1.key = State.reset.key := by decide

/-- S11: Reset restores the font that a store overwrote. -/
theorem test_reset_restores_font :
    (move .reset (State.reset.writeBytes 0 [0x00#8, 0x07#8])).1.readBytes 0 3 =
      [0xF0#8, 0x90#8, 0x90#8] := by decide

/-- The last glyph of the font, F (10_state.md R37), and the first byte past it. -/
theorem test_font_end :
    State.reset.readBytes 75 6 = [0xF0#8, 0x80#8, 0xF0#8, 0x80#8, 0x80#8, 0x00#8] := by decide

/-! ### Witnesses: states and operands that meet the hypotheses of each statement -/

/-- The keys of `ReadsAs` and `UnsupportedAs`: words that have them, the ignored bits set. -/
theorem witness_reads_primary :
    0x1FFF#16 &&& 0xF000#16 = 0x1000#16 ∧ 0x2FFF#16 &&& 0xF000#16 = 0x2000#16 ∧
    0x3FFF#16 &&& 0xF000#16 = 0x3000#16 ∧ 0x4FFF#16 &&& 0xF000#16 = 0x4000#16 ∧
    0x5FFF#16 &&& 0xF000#16 = 0x5000#16 ∧ 0x6FFF#16 &&& 0xF000#16 = 0x6000#16 ∧
    0x7FFF#16 &&& 0xF000#16 = 0x7000#16 ∧ 0x9FFF#16 &&& 0xF000#16 = 0x9000#16 ∧
    0xAFFF#16 &&& 0xF000#16 = 0xA000#16 ∧ 0xBFFF#16 &&& 0xF000#16 = 0xB000#16 ∧
    0xCFFF#16 &&& 0xF000#16 = 0xC000#16 ∧ 0xDFFF#16 &&& 0xF000#16 = 0xD000#16 := by decide

theorem witness_reads_secondary :
    0x0FE0#16 &&& 0xF0FF#16 = 0x00E0#16 ∧ 0x0FEE#16 &&& 0xF0FF#16 = 0x00EE#16 ∧
    0x8FF0#16 &&& 0xF00F#16 = 0x8000#16 ∧ 0x8FF1#16 &&& 0xF00F#16 = 0x8001#16 ∧
    0x8FF2#16 &&& 0xF00F#16 = 0x8002#16 ∧ 0x8FF3#16 &&& 0xF00F#16 = 0x8003#16 ∧
    0x8FF4#16 &&& 0xF00F#16 = 0x8004#16 ∧ 0x8FF5#16 &&& 0xF00F#16 = 0x8005#16 ∧
    0x8FF6#16 &&& 0xF00F#16 = 0x8006#16 ∧ 0x8FF7#16 &&& 0xF00F#16 = 0x8007#16 ∧
    0x8FFE#16 &&& 0xF00F#16 = 0x800E#16 ∧ 0xEF9E#16 &&& 0xF0FF#16 = 0xE09E#16 ∧
    0xEFA1#16 &&& 0xF0FF#16 = 0xE0A1#16 ∧ 0xFF07#16 &&& 0xF0FF#16 = 0xF007#16 ∧
    0xFF0A#16 &&& 0xF0FF#16 = 0xF00A#16 ∧ 0xFF15#16 &&& 0xF0FF#16 = 0xF015#16 ∧
    0xFF18#16 &&& 0xF0FF#16 = 0xF018#16 ∧ 0xFF1E#16 &&& 0xF0FF#16 = 0xF01E#16 ∧
    0xFF29#16 &&& 0xF0FF#16 = 0xF029#16 ∧ 0xFF33#16 &&& 0xF0FF#16 = 0xF033#16 ∧
    0xFF55#16 &&& 0xF0FF#16 = 0xF055#16 ∧ 0xFF65#16 &&& 0xF0FF#16 = 0xF065#16 := by decide

theorem witness_CycleBeforeLoad : (List.replicate 3584 0x01#8).length ≤ 3584 := by
  rw [List.length_replicate]

/-- Both sides of pc = 0xFFF, and a Cycle that completes at the last word. -/
theorem witness_FetchBigEndian :
    (0xFFE#16 : Word).toNat < 0xFFF ∧ 0xFFF ≤ (0xFFF#16 : Word).toNat ∧
    ∃ t, cycle (code { State.reset with pc := 0xFFE#16 } 0x6012#16) = .next t :=
  ⟨by decide, by decide, _, eq_next (by decide)⟩

theorem witness_StepRunsDecoded :
    let s := code { State.reset with pc := 0xFFE#16 } 0x6012#16
    s.pc.toNat < 0xFFF ∧ decodeBytes s.cfg.extStd [s.readByte s.pc.toNat, s.readByte (s.pc.toNat + 1)] =
      .ok (.ldImm 0x0#4 0x12#8, []) := by decide

/-- What follows the decoded instruction there: exec answers a next state, or faults. -/
theorem witness_StepRunsDecoded_outcomes :
    completed (exec (.ldImm 0x0#4 0x12#8) State.reset) = true ∧
    exec (.sys 0x123#12) State.reset = .fault (.unimplementedOpcode 0x0000#16) := ⟨by decide, rfl⟩

theorem witness_DecodeEncode :
    Instr.wfIn false (.sys 0xFFF#12) = true ∧ Instr.wfIn false (.drw 0xF#4 0xF#4 0xF#4) = true ∧
    Instr.wfIn true (.ldMemVx 0xF#4) = true := by decide

theorem witness_DecodedIsWellFormed :
    decode false 0x0FFF#16 = .ok (.sys 0xFFF#12) ∧ decode true 0x8FFE#16 = .ok (.shl 0xF#4) := by decide

theorem witness_UnsupportedWords :
    (code State.reset 0x8008#16).fetch = .ok 0x8008#16 ∧
    decode (code State.reset 0x8008#16).cfg.extStd 0x8008#16 = .error (.unsupported 0x8008#16) := by decide

theorem witness_IgnoredBits :
    fieldF 0x5017#16 = 0x5#4 ∧ fieldF 0x901F#16 = 0x9#4 ∧
    fieldF 0x823E#16 = 0x8#4 ∧ fieldN 0x823E#16 = 0xE#4 ∧ fieldN 0x8236#16 = 0x6#4 := by decide

theorem witness_SysRaises :
    let s := code State.reset 0x0FFF#16
    s.fetch = .ok 0x0FFF#16 ∧ fieldF 0x0FFF#16 = 0x0#4 ∧ fieldNN 0x0FFF#16 ≠ 0xE0#8 ∧
    fieldNN 0x0FFF#16 ≠ 0xEE#8 := by decide

theorem witness_RetReturns :
    (State.reset.push 0xFFE#16).sp ≠ 0 ∧ ({ State.reset with sp := 15 } : State).sp ≠ 0 ∧
    State.reset.sp = 0 := by decide

theorem witness_JpJumps :
    0xFFF ≤ (0xFFF#12 : Addr).toNat ∧
    (let s := (code State.reset 0x1200#16).tick;
      s.fetch = .ok (wordNNN 0x1#4 0x200#12) ∧ s.tp = true) := by decide

theorem witness_CallPushes :
    ({ State.reset with sp := 14 } : State).sp ≠ 15 ∧ State.reset.sp ≠ 15 ∧
    ({ State.reset with sp := 15 } : State).sp = 15 ∧ (0 : Fin 16) ≠ (State.reset.push 0x200#16).sp := by
  decide

theorem witness_CallThenRet :
    ∃ t u : State, exec (.call 0x300#12) State.reset = .next t ∧ u.sp = t.sp ∧ u.stack = t.stack :=
  ⟨_, _, eq_next (by decide), rfl, rfl⟩

theorem witness_JpV0Jumps :
    (ext State.reset).cfg.extStd = true ∧ State.reset.cfg.extStd = false ∧
    0xFFF ≤ (after (exec (.jpV0 0xFFF#12) (ext State.reset))).pc.toNat := by decide

/-- X other than F, and the condition of EXT_STD: AddCarries, SubBorrows, SubnBorrows, ShiftsByOne,
LogicOfRegisters, IndexWrites. -/
theorem witness_Registers :
    (0xE#4 : Nibble) ≠ 0xF#4 ∧ (ext State.reset).cfg.extStd = true ∧ State.reset.cfg.extStd = false := by
  decide

/-- I at the last address that fits, and at the first that does not. -/
theorem witness_BcdStored :
    (0xFFD#16 : Word).toNat + 2 ≤ 0xFFF ∧ 0xFFF < (0xFFE#16 : Word).toNat + 2 := by decide

/-- The same for a block of X + 1 registers; RegistersLoaded has the same hypotheses but EXT_STD. -/
theorem witness_RegistersStored :
    (ext State.reset).cfg.extStd = true ∧ State.reset.cfg.extStd = false ∧
    (0xFF0#16 : Word).toNat + (0xF#4 : Nibble).toNat ≤ 0xFFF ∧
    0xFFF < (0xFF1#16 : Word).toNat + (0xF#4 : Nibble).toNat ∧
    (0xF#4 : Nibble).toNat ≤ (0xF#4 : Nibble).toNat := by decide

theorem witness_RegistersLoaded :
    (0xFFF#16 : Word).toNat + (0x0#4 : Nibble).toNat ≤ 0xFFF ∧
    0xFFF < (0x1000#16 : Word).toNat + (0x0#4 : Nibble).toNat ∧
    (0x0#4 : Nibble).toNat ≤ (0x0#4 : Nibble).toNat := by decide

theorem witness_WholeRangeChecked :
    rangeLen (.drw 0x0#4 0x1#4 0x1#4) = some 1 ∧ 0xFFF < (0x1000#16 : Word).toNat + 1 - 1 ∧
    (0xFFF#16 : Word).toNat + 1 - 1 ≤ 0xFFF ∧ rangeLen (.drw 0x0#4 0x1#4 0x0#4) = some 0 ∧
    rangeLen (.ldMemVx 0xF#4) = some 16 ∧ (ext State.reset).cfg.extStd = true ∧
    0xFFF < (0xFF1#16 : Word).toNat + 16 - 1 ∧ rangeLen (.ldB 0x0#4) = some 3 ∧
    (0xFFD#16 : Word).toNat + 3 - 1 ≤ 0xFFF := by decide

theorem witness_WholeRangeChecked_cycle :
    cycle (code (State.reset.setI 0xFFE#16) 0xF033#16) = .fault (.memRange 0xF033#16 0x1000) := by rfl

/-- There is a state of the memory of `t` that fetches at `pc`. -/
theorem fetches_at (t : State) (pc : Word) (h : pc.toNat < 0xFFF) :
    ∃ u : State, u.pc = pc ∧ (∀ a, u.readByte a = t.readByte a) ∧ u.pc.toNat < 0xFFF :=
  ⟨t.setPc pc, rfl, fun _ => rfl, h⟩

/-- Stores that complete, FX55 with X = 0 among them: their next state fetches at I, and there are states of
the same memory that fetch one byte before I, at the last byte stored, and at 0xFFE. -/
theorem witness_StoreThenFetch :
    (∃ t, exec (.ldB 0x0#4) (State.reset.setI 0x202#16) = .next t ∧ t.pc = 0x202#16 ∧
      (∃ u : State, u.pc = 0x201#16 ∧ (∀ a, u.readByte a = t.readByte a) ∧ u.pc.toNat < 0xFFF) ∧
      ∃ u : State, u.pc = 0x204#16 ∧ (∀ a, u.readByte a = t.readByte a) ∧ u.pc.toNat < 0xFFF) ∧
    (∃ t, exec (.ldB 0x0#4) (State.reset.setI 0xFFD#16) = .next t ∧
      ∃ u : State, u.pc = 0xFFE#16 ∧ (∀ a, u.readByte a = t.readByte a) ∧ u.pc.toNat < 0xFFF) ∧
    ∃ t, exec (.ldMemVx 0x0#4) (ext (State.reset.setI 0x202#16)) = .next t ∧ t.pc = 0x202#16 ∧
      ∃ u : State, u.pc = 0x201#16 ∧ (∀ a, u.readByte a = t.readByte a) ∧ u.pc.toNat < 0xFFF :=
  ⟨⟨_, eq_next (by decide), by decide, fetches_at _ _ (by decide), fetches_at _ _ (by decide)⟩,
    ⟨_, eq_next (by decide), fetches_at _ _ (by decide)⟩,
    ⟨_, eq_next (by decide), by decide, fetches_at _ _ (by decide)⟩⟩

/-- Cells under both policies: the four clauses of DrwDraws, N = 0 and a sprite that ends at 0xFFF too. -/
theorem witness_DrwDraws :
    ((0x1#4 : Nibble) ≠ 0x0#4 ∧ (0xFFF#16 : Word).toNat + (0x1#4 : Nibble).toNat - 1 ≤ 0xFFF) ∧
    0xFFF < (0x1000#16 : Word).toNat + (0x1#4 : Nibble).toNat - 1 ∧
    (let s := lit (data State.reset 0x300#16 [0xC0#8]) 1;
      s.Covers 0x0#4 0x1#4 0x1#4 1 ∧ s.gfx.cell 1 = true) ∧
    (let s := linear (data (regs [(0x1#4, 31#8)]) 0x300#16 [0x80#8, 0x80#8]);
      s.Covers 0x0#4 0x1#4 0x2#4 2048) :=
  ⟨by decide, by decide, ⟨⟨0, 1, by decide⟩, by decide⟩, ⟨1, 0, by decide⟩⟩

/-- Under LINEAR, a sprite whose one set bit falls on the last cell, 2047, which is dark. -/
theorem witness_DrwDraws_linear :
    let s := linear (data (regs [(0x0#4, 63#8), (0x1#4, 31#8)]) 0x300#16 [0x80#8])
    s.cfg.drawPolicy = .linear ∧
      ∀ j, s.Covers 0x0#4 0x1#4 0x1#4 j → j < 2048 ∧ s.gfx.cell j = false := by
  refine ⟨by decide, ?_⟩
  rintro j ⟨r, c, hr, hc, hb, rfl⟩
  have hr0 : r = 0 := by simpa using hr
  subst hr0
  have key : ∀ c : Fin 8, (0x80#8 : Byte).getLsbD (7 - c.val) = true → c.val = 0 := by decide
  have hc0 : c = 0 := key ⟨c, hc⟩ hb
  subst hc0
  exact ⟨by decide, by decide⟩

/-- The first index out of range is 2048, in row 1 (vector D7). -/
theorem witness_LinearRangeFault :
    let s := linear (data (regs [(0x1#4, 31#8)]) 0x300#16 [0x80#8, 0x80#8])
    s.cfg.drawPolicy = .linear ∧ s.i.toNat + 2 - 1 ≤ 0xFFF ∧ s.spriteBit 1 0 = true ∧
    2048 ≤ s.pixelAt 0x0#4 0x1#4 1 0 ∧
    (∀ r' < 2, ∀ c' < 8, (r' < 1 ∨ (r' = 1 ∧ c' < 0)) → s.spriteBit r' c' = true →
      s.pixelAt 0x0#4 0x1#4 r' c' < 2048) ∧
    cycle (code s 0xD012#16) = .fault (.drawRange 0xD012#16 2048) ∧
    State.reset.cfg.drawPolicy = .wrap :=
  ⟨by decide, by decide, by decide, by decide, by decide, by rfl, by decide⟩

theorem witness_SpriteBitsDistinct :
    14 < 15 ∧ 7 < 8 ∧ pixAddr .linear (255 + 7) (255 + 14) = pixAddr .linear (255 + 7) (255 + 14) := by
  decide

/-- A DXYN that completes, and another instruction: OnlyDrwEmitsDraw, WritersOfState, ConfigurationFixed. -/
theorem witness_completing :
    (∃ t, exec (.drw 0x0#4 0x1#4 0x1#4) State.reset = .next t) ∧
    (∃ t, exec .cls State.reset = .next t) ∧
    ∃ t, step (code State.reset 0x6A2B#16) = .next t :=
  ⟨⟨_, eq_next (by decide)⟩, ⟨_, rfl⟩, ⟨_, eq_next (by decide)⟩⟩

theorem witness_DrawTwiceRestores :
    (0x0#4 : Nibble) ≠ 0xF#4 ∧ (0x1#4 : Nibble) ≠ 0xF#4 ∧
    ∃ t u, exec (.drw 0x0#4 0x1#4 0x1#4) State.reset = .next t ∧
      exec (.drw 0x0#4 0x1#4 0x1#4) t = .next u :=
  ⟨by decide, by decide, _, _, eq_next (by decide), eq_next (by decide)⟩

theorem witness_KeySkips :
    ((regs [(0x1#4, 0x0F#8)]).getV 0x1#4).toNat = (15 : Fin 16).val ∧
    0xF < ((regs [(0x1#4, 0x10#8)]).getV 0x1#4).toNat ∧
    (ext State.reset).cfg.extStd = true ∧ State.reset.cfg.extStd = false := by decide

theorem witness_KeyWait :
    let s := ext (keys State.reset [15])
    s.cfg.extStd = true ∧ s.key[15] ≠ 0x00#8 ∧ (∀ q : Fin 16, q < 15 → s.key[q] = 0x00#8) ∧
    (∀ q : Fin 16, (ext State.reset).key[q] = 0x00#8) ∧
    (code (ext State.reset) 0xF20A#16).fetch = .ok 0xF20A#16 ∧
    decode true 0xF20A#16 = .ok (.ldVxK 0x2#4) := by decide

theorem witness_TimerServicedAfterWrite :
    (code State.reset 0xF307#16).fetch = .ok 0xF307#16 ∧ decode false 0xF307#16 = .ok (.ldVxDt 0x3#4) ∧
    (code State.reset 0xF015#16).fetch = .ok 0xF015#16 ∧ decode false 0xF015#16 = .ok (.ldDtVx 0x0#4) ∧
    (code State.reset 0xF018#16).fetch = .ok 0xF018#16 ∧ decode false 0xF018#16 = .ok (.ldStVx 0x0#4) := by
  decide

theorem witness_ServicePoint :
    State.reset.tp = false ∧ State.reset.tick.tp = true ∧
    (let s := code State.reset 0x6A2B#16;
      s.fetch = .ok 0x6A2B#16 ∧ decode s.cfg.extStd 0x6A2B#16 = .ok (.ldImm 0xA#4 0x2B#8) ∧
      ∃ t, exec (.ldImm 0xA#4 0x2B#8) (s.beginCycle.setOp 0x6A2B#16) = .next t) :=
  ⟨rfl, rfl, by decide, by decide, _, rfl⟩

theorem witness_EventsOfCycle :
    ∃ t, cycle (code { State.reset with tp := true, st := 0x01#8 } 0xD010#16) = .next t :=
  ⟨_, eq_next (by decide)⟩

/-- Five Cycles at a self-jump, three with a firing. -/
theorem witness_DelayCountsTicks :
    let s := code { State.reset with dt := 0x05#8 } 0x1200#16
    s.tp = false ∧ ∃ t, runTicks [true, false, true, false, true] s = some t :=
  ⟨rfl, _, rfl⟩

/-- A fault of the instruction, and one of the fetch. -/
theorem witness_FaultsArePrecise :
    cycle (code State.reset 0x00EE#16) = .fault (.stackUnderflow 0x00EE#16 0x200#16) ∧
    (code State.reset 0x00EE#16).fetch = .ok 0x00EE#16 ∧
    cycle { State.reset with pc := 0xFFF#16 } = .fault (.fetchRange 0xFFF#16) :=
  ⟨by rfl, by decide, by rfl⟩

/-- Vector H12. -/
theorem witness_FaultRepeats :
    ∃ t, move .cycle (code State.reset 0x00EE#16) = (t, .fault (.stackUnderflow 0x00EE#16 0x200#16)) :=
  ⟨_, rfl⟩

/-- One fault under each kind of condition: a range through I, the stack, a key index, EXT_STD, and a set
bit out of range under LINEAR. -/
theorem witness_FaultsOfInstructions :
    exec (.ldB 0x0#4) (State.reset.setI 0xFFE#16) = .fault (.memRange 0x0000#16 0x1000) ∧
    exec .ret State.reset = .fault (.stackUnderflow 0x0000#16 0x200#16) ∧
    exec (.skp 0x1#4) (ext (regs [(0x1#4, 0x10#8)])) = .fault (.keyRange 0x0000#16 0x10#8) ∧
    exec (.shl 0x1#4) State.reset = .fault (.unsupportedOpcode 0x0000#16) ∧
    exec (.drw 0x0#4 0x1#4 0x2#4) (linear (data (regs [(0x1#4, 31#8)]) 0x300#16 [0x80#8, 0x80#8])) =
      .fault (.drawRange 0x0000#16 2048) := ⟨by rfl, by rfl, by rfl, by rfl, by rfl⟩

theorem witness_LoadProgram :
    ({ State.reset with loaded := true } : State).loaded = true ∧ State.reset.loaded = false ∧
    3584 < (List.replicate 3585 0x01#8).length ∧ (List.replicate 3584 0x01#8).length ≤ 3584 ∧
    (0x1FF < 0x200 ∨ 0x200 + 3584 ≤ 0x1FF) ∧ (0xFFF < 0x200 ∨ 0x200 + 3583 ≤ 0xFFF) := by
  rw [List.length_replicate, List.length_replicate]
  decide

theorem witness_PixelsAndKeys : 2047 < 2048 ∧ 2048 ≤ 2048 ∧ (15 : Fin 16).val = 15 ∧ 16 ≤ 16 := by decide

/-- A state inside a subroutine, with memory written: it meets the invariant, and its step completes. It
serves MovesKeepInv too, with any list of moves. -/
theorem witness_StepKeepsInv :
    let s := code (State.reset.push 0xFFE#16) 0x00EE#16
    s.Inv ∧ ∃ t, step s = .next t :=
  ⟨⟨by decide, by decide, by decide, by decide, by decide⟩, _, eq_next (by decide)⟩

/-- The bound on pc is met with equality after a Cycle (vector F20). -/
theorem witness_PcBounded :
    let s := ext (code (regs [(0x0#4, 0xFF#8)]) 0xBFFF#16)
    (∀ k : Fin 16, s.stack[k].toNat ≤ 0xFFE) ∧ ∃ t, cycle s = .next t ∧ t.pc = 0x10FE#16 :=
  ⟨by decide, _, eq_next (by decide), by decide⟩

/-- A halt at 0x200 (vector F3), with both timers running and ST at 1, from where the next firing brings a
Beep. It serves both clauses, with any pattern of firings. -/
theorem witness_HaltStays :
    ∃ t, ReachesHalt 0x200#12 (code { State.reset with dt := 0x05#8, st := 0x01#8 } 0x1200#16) t ∧
      t.st = 0x01#8 ∧ t.dt = 0x05#8 :=
  ⟨_, ⟨eq_next (by decide), by decide, by decide⟩, by decide, by decide⟩

end Sys2Proof.Tests
end

section
/-! PROOFS. The whole system's runs: the ways in which an instruction can complete, the invariant along every
list of moves (00_scope.md R8; 60_exceptions.md R305), and the configuration, which nothing writes
(10_state.md R39). -/

namespace Sys2Proof.Machine

/-! ### How an instruction completes -/

/-- The values that an instruction without the call stack can give pc: the instruction waits, it goes on
past one or two words, or it jumps (10_state.md R24, R26). -/
inductive State.MayGo (s : State) : Word → Prop where
  | wait : s.MayGo s.pc
  | advance : s.MayGo (s.pc + 2#16)
  | skip : s.MayGo (s.pc + 4#16)
  | jump (nnn : Addr) : s.MayGo (addrWord nnn)
  | jumpBy (nnn : Addr) (b : Byte) : s.MayGo (addrWord nnn + byteWord b)

/-- The ways in which an instruction can complete from `s`, as far as memory, the call stack, pc and the
configuration go. -/
inductive State.Completes (s : State) : State → Prop where
  /-- Memory, the call stack and the configuration are kept. -/
  | keep {t : State} (cfg : t.cfg = s.cfg) (mem : t.mem = s.mem) (stack : t.stack = s.stack)
      (pc : s.MayGo t.pc) : s.Completes t
  /-- FX33 and FX55: a range through I that lies in RAM is written (20_memory.md R64). -/
  | store (bs : List Byte) (room : s.base + bs.length ≤ memSize) :
      s.Completes (s.writeBytes s.base bs).advance
  /-- RET (41_control_flow.md R131). -/
  | ret (hsp : s.sp ≠ 0) : s.Completes (s.setPc (s.top + 2#16)).pop
  /-- CALL (41_control_flow.md R133). -/
  | call (nnn : Addr) (hsp : s.sp ≠ 15) : s.Completes ((s.push s.pc).setPc (addrWord nnn))

section
variable {s t : State}

theorem State.mayGo_skipIf (c : Bool) : s.MayGo (s.skipIf c).pc := by
  cases c
  · exact .advance
  · exact .skip

theorem State.completes_skipIf (c : Bool) : s.Completes (s.skipIf c) :=
  .keep (by simp) (by simp) (by simp) (State.mayGo_skipIf c)

theorem State.completes_result {x : Nibble} {r : Byte} (h : s.result x r = .next t) : s.Completes t := by
  obtain rfl := Host.Outcome.next.inj h
  exact .keep rfl rfl rfl .advance

theorem State.completes_flagged {x : Nibble} {r : Byte} {c : Bool} (h : s.flagged x r c = .next t) :
    s.Completes t := by
  obtain rfl := Host.Outcome.next.inj h
  exact .keep rfl rfl rfl .advance

theorem State.completes_store {bs : List Byte} {len : Nat} (hlen : bs.length = len) (hpos : len ≠ 0)
    (h : s.withRange len (.next (s.writeBytes s.base bs).advance) = .next t) : s.Completes t := by
  obtain ⟨hroom, h⟩ := s.withRange_next h
  obtain rfl := Host.Outcome.next.inj h
  exact .store bs (by omega)

theorem execRet_completes (h : execRet s = .next t) : s.Completes t := by
  simp only [execRet] at h
  split at h
  · cases h
  · obtain rfl := Host.Outcome.next.inj h
    exact .ret ‹_›

theorem execCall_completes {nnn : Addr} (h : execCall nnn s = .next t) : s.Completes t := by
  simp only [execCall] at h
  split at h
  · cases h
  · obtain rfl := Host.Outcome.next.inj h
    exact .call nnn ‹_›

theorem execLdVxK_completes {x : Nibble} (h : execLdVxK x s = .next t) : s.Completes t := by
  obtain ⟨-, h⟩ := s.withExt_next h
  split at h
  · exact State.completes_result h
  · obtain rfl := Host.Outcome.next.inj h
    exact .keep rfl rfl rfl .wait

/-- Every instruction that completes does so in one of these ways. -/
theorem exec_completes {i : Instr} (h : exec i s = .next t) : s.Completes t := by
  cases i with
  | ret => exact execRet_completes h
  | call nnn => exact execCall_completes h
  | sys nnn => cases h
  | jp nnn =>
    obtain rfl := Host.Outcome.next.inj h
    exact .keep rfl rfl rfl (.jump nnn)
  | jpV0 nnn =>
    obtain ⟨-, h⟩ := s.withExt_next h
    obtain rfl := Host.Outcome.next.inj h
    exact .keep rfl rfl rfl (.jumpBy nnn _)
  | seImm | sneImm | seReg | sneReg =>
    obtain rfl := Host.Outcome.next.inj h
    exact State.completes_skipIf _
  | skp x =>
    obtain ⟨-, h⟩ := s.withExt_next h
    obtain ⟨-, h⟩ := s.withKey_next h
    obtain rfl := Host.Outcome.next.inj h
    exact State.completes_skipIf _
  | sknp x =>
    simp only [exec, execSknp] at h
    obtain ⟨-, h⟩ := s.withKey_next h
    obtain rfl := Host.Outcome.next.inj h
    exact State.completes_skipIf _
  | ldImm | addImm | ldReg | andReg | rnd | ldVxDt => exact State.completes_result h
  | orReg | xorReg => exact State.completes_result (s.withExt_next h).2
  | addReg | subReg => exact State.completes_flagged h
  | shr | subnReg | shl => exact State.completes_flagged (s.withExt_next h).2
  | cls | ldI | ldF | ldDtVx | ldStVx =>
    obtain rfl := Host.Outcome.next.inj h
    exact .keep rfl rfl rfl .advance
  | addI x =>
    obtain ⟨-, h⟩ := s.withExt_next h
    obtain rfl := Host.Outcome.next.inj h
    exact .keep rfl rfl rfl .advance
  | drw x y n =>
    obtain ⟨-, -, rfl⟩ := execDrw_next h
    exact .keep rfl rfl rfl .advance
  | ldVxK x => exact execLdVxK_completes h
  | ldB x => exact State.completes_store (bs := bcdDigits (s.getV x)) (len := 3) rfl (by decide) h
  | ldMemVx x =>
    exact State.completes_store (s.length_firstRegs (by omega)) (by omega) (s.withExt_next h).2
  | ldVxMem x =>
    obtain ⟨-, h⟩ := s.withRange_next h
    obtain rfl := Host.Outcome.next.inj h
    exact .keep rfl rfl rfl .advance

/-! ### The configuration (10_state.md R39) -/

theorem State.Completes.cfg_eq (h : s.Completes t) : t.cfg = s.cfg := by
  cases h with
  | keep cfg mem stack pc => exact cfg
  | store bs room => simp
  | ret hsp => rfl
  | call nnn hsp => rfl

theorem cycle_cfg (h : cycle s = .next t) : t.cfg = s.cfg := by
  obtain ⟨w, i, u, -, -, hu, rfl⟩ := cycle_next s h
  simpa using (exec_completes hu).cfg_eq

theorem faulted_cfg (s : State) : (faulted s).cfg = s.cfg := by
  rw [faulted_eq]

/-! ### The bound on pc (10_state.md R26) -/

/-- From a pc that can be fetched from, at most 0xFFF + 0xFF: the jump of BNNN goes furthest. -/
theorem State.MayGo.le {w : Word} (h : s.MayGo w) (hpc : s.pc.toNat < 0xFFF) : w.toNat ≤ 0x10FE := by
  cases h with
  | wait => omega
  | advance => bv_omega
  | skip => bv_omega
  | jump nnn =>
    have := toNat_addrWord nnn
    omega
  | jumpBy nnn b =>
    have := toNat_addrWord nnn
    have := toNat_byteWord b
    bv_omega

theorem State.Completes.pc_le (h : s.Completes t) (hpc : s.pc.toNat < 0xFFF)
    (hstack : ∀ k : Fin 16, s.stack[k].toNat ≤ 0xFFE) : t.pc.toNat ≤ 0x10FE := by
  cases h with
  | keep cfg mem stack pc => exact pc.le hpc
  | store bs room => exact State.MayGo.le (by simpa using State.MayGo.advance) hpc
  | ret hsp =>
    have htop : s.top.toNat ≤ 0xFFE := hstack s.sp
    simp only [State.pop_pc, State.setPc_pc]
    bv_omega
  | call nnn hsp => exact (State.MayGo.jump nnn).le hpc

/-! ### The invariant under the state's operations -/

/-- The invariant reads memory, the configuration, the call stack and pc alone. -/
theorem State.Inv.of_frame (hs : s.Inv) (hcfg : t.cfg = s.cfg) (hmem : t.mem = s.mem)
    (hstack : t.stack = s.stack) (hpc : t.pc.toNat ≤ 0x10FE) : t.Inv where
  memWf := by rw [hcfg, hmem]; exact hs.memWf
  memIn := by rw [hmem]; exact hs.memIn
  pcLe := hpc
  stackLe := by rw [hstack]; exact hs.stackLe
  stackZero := by rw [hstack]; exact hs.stackZero

theorem State.Inv.writeBytes (hs : s.Inv) {a : Nat} {bs : List Byte} (room : a + bs.length ≤ memSize) :
    (s.writeBytes a bs).Inv where
  memWf := by rw [State.writeBytes_cfg]; exact s.writeBytes_mem_wf a bs hs.memWf
  memIn := s.writeBytes_mem_in a bs room hs.memIn
  pcLe := by rw [State.writeBytes_pc]; exact hs.pcLe
  stackLe := by rw [State.writeBytes_stack]; exact hs.stackLe
  stackZero := by rw [State.writeBytes_stack]; exact hs.stackZero

/-- A push below the last entry never reaches `Stack[0]` (10_state.md R27). -/
theorem State.Inv.push (hs : s.Inv) {w : Word} (hw : w.toNat ≤ 0xFFE) (hsp : s.sp ≠ 15) :
    (s.push w).Inv where
  memWf := hs.memWf
  memIn := hs.memIn
  pcLe := hs.pcLe
  stackLe := fun k => by
    rw [State.getElem_push]
    split
    · exact hw
    · exact hs.stackLe k
  stackZero := by
    have hne : (0 : Fin 16) ≠ s.sp + 1 := by omega
    have h := s.getElem_push (w := w) 0
    rw [if_neg hne] at h
    exact h.trans hs.stackZero

theorem State.resetWith_inv (c : Config) : (State.resetWith c).Inv where
  memWf := Memory.nil_wf _
  memIn := by simp [State.resetWith]
  pcLe := show (0x200#16 : Word).toNat ≤ 0x10FE by decide
  stackLe := fun k => by simp [State.resetWith]
  stackZero := by simp [State.resetWith]

theorem State.Completes.inv (h : s.Completes t) (hpc : s.pc.toNat < 0xFFF) (hs : s.Inv) : t.Inv := by
  have hle : t.pc.toNat ≤ 0x10FE := h.pc_le hpc hs.stackLe
  cases h with
  | keep cfg mem stack pc => exact hs.of_frame cfg mem stack hle
  | store bs room => exact (hs.writeBytes room).of_frame rfl rfl rfl hle
  | ret hsp => exact hs.of_frame rfl rfl rfl hle
  | call nnn hsp => exact (hs.push (by omega) hsp).of_frame rfl rfl rfl hle

/-- A Cycle that completes keeps the invariant: it fetched its word, so pc was below 0xFFF. -/
theorem State.Inv.cycle (hs : s.Inv) (h : cycle s = .next t) : t.Inv := by
  obtain ⟨w, i, u, hw, -, hu, rfl⟩ := cycle_next s h
  have hpc : s.pc.toNat < 0xFFF := (s.fetch_ok hw).1
  have hbegun : (s.beginCycle.setOp w).Inv := hs.of_frame rfl rfl rfl hs.pcLe
  have hu : u.Inv := (exec_completes hu).inv hpc hbegun
  exact hu.of_frame (by simp) (by simp) (by simp) (by simpa using hu.pcLe)

theorem State.Inv.faulted (hs : s.Inv) : (faulted s).Inv := by
  rw [faulted_eq]
  exact hs.of_frame rfl rfl rfl hs.pcLe

/-! ### The entry points -/

/-- What `Cycle` leaves: the completed state, that of a faulting Cycle, or, for a refusal, `s` itself. -/
theorem State.hostCycle_fst (s : State) :
    cycle s = .next s.hostCycle.1 ∨ s.hostCycle.1 = faulted s ∨ s.hostCycle.1 = s := by
  simp only [State.hostCycle]
  split
  · exact .inl ‹_›
  · exact .inr (.inl rfl)
  · exact .inr (.inr rfl)

/-- What `Load` leaves: `s` itself, or a program that fits above 0x200 written there (R324 to R326). -/
theorem State.hostLoad_fst (s : State) (b : List Byte) :
    (s.hostLoad b).1 = s ∨
      (b.length ≤ maxRom ∧ (s.hostLoad b).1 = { s.writeBytes progStart b with loaded := true }) := by
  simp only [State.hostLoad]
  split
  · exact .inl rfl
  · split
    · exact .inl rfl
    · exact .inr ⟨by omega, rfl⟩

theorem State.hostPixelSet_fst (s : State) (i : Nat) : (s.hostPixelSet i).1 = s := by
  simp only [State.hostPixelSet]
  split <;> rfl

theorem State.hostKeyDown_fst (s : State) (k : Nat) :
    (s.hostKeyDown k).1 = { s with key := (s.hostKeyDown k).1.key } := by
  simp only [State.hostKeyDown]
  split <;> rfl

theorem move_cfg (m : Move) (s : State) : (move m s).1.cfg = s.cfg := by
  cases m with
  | tick | reset | keysClear => rfl
  | load b =>
    obtain h | ⟨-, h⟩ := s.hostLoad_fst b
    · exact congrArg State.cfg h
    · exact (congrArg State.cfg h).trans (s.writeBytes_cfg progStart b)
  | cycle =>
    obtain h | h | h := s.hostCycle_fst
    · exact cycle_cfg h
    · exact (congrArg State.cfg h).trans (faulted_cfg s)
    · exact congrArg State.cfg h
  | pixelSet i => exact congrArg State.cfg (s.hostPixelSet_fst i)
  | keyDown k =>
    change (s.hostKeyDown k).1.cfg = s.cfg
    rw [s.hostKeyDown_fst]

theorem State.Inv.move (hs : s.Inv) (m : Move) : (move m s).1.Inv := by
  cases m with
  | tick | keysClear => exact hs.of_frame rfl rfl rfl hs.pcLe
  | reset => exact (State.resetWith_inv s.cfg).of_frame rfl rfl rfl (State.resetWith_inv s.cfg).pcLe
  | load b =>
    change (s.hostLoad b).1.Inv
    obtain h | ⟨hlen, h⟩ := s.hostLoad_fst b
    · rwa [h]
    · have hw : (s.writeBytes progStart b).Inv :=
        hs.writeBytes (by simp only [progStart, memSize, maxRom] at hlen ⊢; omega)
      rw [h]
      exact hw.of_frame rfl rfl rfl hw.pcLe
  | cycle =>
    change s.hostCycle.1.Inv
    obtain h | h | h := s.hostCycle_fst
    · exact hs.cycle h
    · rw [h]; exact hs.faulted
    · rwa [h]
  | pixelSet i =>
    change (s.hostPixelSet i).1.Inv
    rwa [s.hostPixelSet_fst]
  | keyDown k =>
    change (s.hostKeyDown k).1.Inv
    rw [s.hostKeyDown_fst]
    exact hs.of_frame rfl rfl rfl hs.pcLe

/-- What holds of a state and is kept by every move holds after every list of moves. -/
theorem runMoves_induction {P : State → Prop} (hmove : ∀ (m : Move) (s : State), P s → P (move m s).1)
    (ms : List Move) (hs : P s) : P (runMoves ms s).1 := by
  induction ms generalizing s with
  | nil => exact hs
  | cons m ms ih => exact ih (hmove m s hs)

end

/-- Settles O55, by induction on the moves: each entry point keeps the invariant, and a Cycle does because it
completes only from a pc below 0xFFF. -/
theorem movesKeepInv : Obligations.MovesKeepInv :=
  fun ms _ hs => runMoves_induction (fun m _ h => h.move m) ms hs

/-- Settles O58: every way of completing keeps the configuration, and so does every move. -/
theorem configurationFixed : Obligations.ConfigurationFixed := by
  refine ⟨fun i s t h => (exec_completes h).cfg_eq, fun s t h => ?_, fun ms s => ?_⟩
  · exact (cycle_cfg h).trans (tickerTurn_cfg s)
  · exact runMoves_induction (P := fun t => t.cfg = s.cfg) (fun m t h => (move_cfg m t).trans h) ms rfl

end Sys2Proof.Machine
end

section
/-! PROOFS. What Decode gives is an instruction of the core (00_scope.md R9; 30_encoding.md R100, R102). -/

namespace Sys2Proof

variable {ext : Bool} {w : Word} {i : Instr}

/-- A core with EXT_STD has every well-formed instruction. -/
theorem Instr.wfIn_true (hwf : i.wf = true) : i.wfIn true = true := by
  simp [Instr.wfIn, hwf]

/-- Every core has the well-formed instructions of R99. -/
theorem Instr.wfIn_of_not_isExt (hwf : i.wf = true) (hext : i.isExt = false) : i.wfIn ext = true := by
  simp [Instr.wfIn, hwf, hext]

theorem low_byte_fieldNNN (w : Word) : (fieldNNN w).extractLsb' 0 8 = fieldNN w := by
  rw [← fieldNN_wordNNN (fieldF w), wordNNN_fields]

theorem decodeSys_wfIn (ext : Bool) (w : Word) : (decodeSys w).wfIn ext = true := by
  simp only [decodeSys]
  split
  · exact Instr.wfIn_of_not_isExt rfl rfl
  · exact Instr.wfIn_of_not_isExt rfl rfl
  · rename_i hE0 hEE
    have hwf : (Instr.sys (fieldNNN w)).wf = true := by
      simp only [Instr.wf, low_byte_fieldNNN, Bool.and_eq_true, bne_iff_ne, ne_eq]
      exact ⟨fun h => hE0 (congrArg BitVec.toNat h), fun h => hEE (congrArg BitVec.toNat h)⟩
    exact Instr.wfIn_of_not_isExt hwf rfl

theorem decodeAlu_wfIn (h : decodeAlu ext w = .ok i) : i.wfIn ext = true := by
  simp only [decodeAlu] at h
  split at h <;> cases h
  -- OR, XOR, SHR, SUBN and SHL are read only with EXT_STD.
  case h_2 | h_4 | h_7 | h_8 | h_9 => exact Instr.wfIn_true rfl
  all_goals exact Instr.wfIn_of_not_isExt rfl rfl

theorem decodeKey_wfIn (h : decodeKey ext w = .ok i) : i.wfIn ext = true := by
  simp only [decodeKey] at h
  split at h <;> cases h
  -- SKP is read only with EXT_STD, SKNP on every core.
  · exact Instr.wfIn_true rfl
  · exact Instr.wfIn_of_not_isExt rfl rfl

theorem decodeMisc_wfIn (h : decodeMisc ext w = .ok i) : i.wfIn ext = true := by
  simp only [decodeMisc] at h
  split at h <;> cases h
  -- LD Vx, K, ADD I, Vx and LD [I], Vx are read only with EXT_STD.
  case h_2 | h_5 | h_8 => exact Instr.wfIn_true rfl
  all_goals exact Instr.wfIn_of_not_isExt rfl rfl

/-- Settles O8, by the dispatch of Decode: primary key first, then the secondary key of its family. -/
theorem decodedIsWellFormed : Obligations.DecodedIsWellFormed := by
  intro ext w i h
  simp only [decode] at h
  split at h
  -- The families 0x8, 0xE and 0xF go on to a secondary key.
  case h_9 => exact decodeAlu_wfIn h
  case h_15 => exact decodeKey_wfIn h
  case h_16 => exact decodeMisc_wfIn h
  all_goals cases h
  case h_1 => exact decodeSys_wfIn _ w
  -- JP V0 is read only with EXT_STD.
  case h_12 => exact Instr.wfIn_true rfl
  all_goals exact Instr.wfIn_of_not_isExt rfl rfl

end Sys2Proof
end

section
/-! PROOFS. The pieces of state (10_state.md): their reset values, the invariant and the bound on pc at a step,
and what a firing and a faulting Cycle change. -/

namespace Sys2Proof.Machine

section
variable {s : State}

/-! ### Reset (R41) -/

/-- The reset values do not depend on the model's own inputs (log entries 5 and 6). -/
theorem isReset_resetWith (c : Config) (n : Nat) (l : List Bool) :
    IsReset { State.resetWith c with slot := n, ticks := l } where
  v := fun x => by simp [State.getV, State.resetWith]
  i := rfl
  pc := rfl
  stack := fun k => by simp [State.resetWith]
  sp := rfl
  dt := rfl
  st := rfl
  font := fun a h => dif_pos h
  mem := fun a h _ => dif_neg (Nat.not_lt.2 h)
  gfx := fun j _ => Frame.cell_clear j
  key := fun k => by simp [State.resetWith]
  op := rfl
  tp := rfl
  loaded := rfl
  events := rfl

/-! ### A faulting Cycle (60_exceptions.md R270) -/

theorem move_cycle_of_fault {f : Fault} (h : cycle s = .fault f) :
    move .cycle s = (faulted s, .fault f) := by
  simp only [move, State.hostCycle, h]

theorem faulted_of_fetch_ok {ins : Word} (h : s.fetch = .ok ins) : faulted s = s.beginCycle.setOp ins := by
  simp only [faulted, h]

theorem faulted_of_fetch_error {f : Fault} (h : s.fetch = .error f) : faulted s = s.beginCycle := by
  simp only [faulted, h]

theorem faulted_slot (s : State) : (faulted s).slot = s.slot + 1 := by
  rw [faulted_eq]

end

/-- Settles O54: the Ticker's turn writes nothing that the invariant reads, and the Cycle keeps it. -/
theorem stepKeepsInv : Obligations.StepKeepsInv := by
  intro s t hs h
  have hturn : (tickerTurn s).Inv := hs.of_frame rfl rfl rfl hs.pcLe
  exact hturn.cycle h

/-- Settles O56: a Cycle that completes fetched its word, so pc was below 0xFFF, and from there no way of
completing leads beyond the bound. -/
theorem pcBounded : Obligations.PcBounded := by
  intro s t hstack h
  obtain ⟨w, i, u, hw, -, hu, rfl⟩ := cycle_next s h
  have hpc : s.pc.toNat < 0xFFF := (s.fetch_ok hw).1
  rw [State.service_pc]
  exact (exec_completes hu).pc_le hpc hstack

/-- Settles O47: what a faulting Cycle leaves is `faulted`, whose OP is the fetched word where there is one. -/
theorem faultsArePrecise : Obligations.FaultsArePrecise := by
  intro s f h
  refine ⟨faulted s, move_cycle_of_fault h, ?_, fun w hw => ?_, fun hpc => ?_⟩
  · rw [faulted_slot]
    exact faulted_eq s
  · rw [faulted_of_fetch_ok hw, State.setOp_op]
  · rw [faulted_of_fetch_error (s.fetch_of_le hpc), State.beginCycle_op]

/-- Settles O1: both reset states are the reset values with some choice of the model's own inputs. -/
theorem resetValues : Obligations.ResetValues :=
  ⟨fun s => ⟨isReset_resetWith s.cfg s.slot s.ticks, rfl⟩, isReset_resetWith defaultConfig 0 [], rfl, rfl⟩

/-- Settles O46: a firing sets TP, and the Ticker's turn keeps a TP that is set. -/
theorem ticksCoalesce : Obligations.TicksCoalesce := by
  intro s
  have hkept : (s.tick.tp || s.tick.tickerFires) = true := by simp
  exact ⟨rfl, rfl, by rw [tickerTurn, hkept]; rfl⟩

/-- Settles O53: every configuration's reset state meets the invariant, and so that of this hardware. -/
theorem resetMeetsInv : Obligations.ResetMeetsInv := State.resetWith_inv defaultConfig

end Sys2Proof.Machine
end

section
/-! PROOFS. What each instruction writes (10_state.md R42). Each update of a piece that a frame names stays
inside the frame, and so does every update of pc; an instruction is a chain of such updates. -/

namespace Sys2Proof.Machine

section
variable {s t : State} {w : Writes}

/-! ### The updates of the state -/

theorem SameBut.refl (w : Writes) (s : State) : SameBut w s s where
  v := fun _ _ => rfl
  i := fun _ => rfl
  stack := fun _ _ => rfl
  sp := fun _ => rfl
  dt := fun _ => rfl
  st := fun _ => rfl
  mem := fun _ _ => rfl
  gfx := fun _ _ => rfl
  events := fun _ => rfl
  key := rfl
  op := rfl
  tp := rfl
  loaded := rfl
  cfg := rfl
  slot := rfl
  ticks := rfl

theorem SameBut.setPc (h : SameBut w s t) (p : Word) : SameBut w s (t.setPc p) := { h with }

theorem SameBut.advance (h : SameBut w s t) : SameBut w s t.advance := h.setPc _

theorem SameBut.skipIf (h : SameBut w s t) (c : Bool) : SameBut w s (t.skipIf c) := by
  cases c
  · exact h.setPc _
  · exact h.setPc _

theorem SameBut.setV (h : SameBut w s t) {x : Nibble} (hx : w.v x = true) (b : Byte) :
    SameBut w s (t.setV x b) :=
  { h with
    v := fun r hr => by
      have hne : r ≠ x := by rintro rfl; simp [hx] at hr
      rw [State.getV_setV, if_neg hne, h.v r hr] }

theorem SameBut.setFlagged (h : SameBut w s t) {x : Nibble} (hx : w.v x = true) (hvf : w.v vf = true)
    (r : Byte) (c : Bool) : SameBut w s (t.setFlagged x r c) :=
  (h.setV hx r).setV hvf _

theorem SameBut.loadBlock (h : SameBut w s t) {x : Nibble} (hx : ∀ r, r.toNat ≤ x.toNat → w.v r = true) :
    SameBut w s (t.loadBlock x) :=
  { h with
    v := fun r hr => by
      have hgt : ¬ r.toNat ≤ x.toNat := fun hle => by simp [hx r hle] at hr
      rw [State.getV_loadBlock, if_neg hgt, h.v r hr] }

theorem SameBut.setI (h : SameBut w s t) (hi : w.i = true) (a : Word) : SameBut w s (t.setI a) :=
  { h with i := fun hf => by simp [hi] at hf }

theorem SameBut.setDt (h : SameBut w s t) (hdt : w.dt = true) (b : Byte) : SameBut w s (t.setDt b) :=
  { h with dt := fun hf => by simp [hdt] at hf }

theorem SameBut.setSt (h : SameBut w s t) (hst : w.st = true) (b : Byte) : SameBut w s (t.setSt b) :=
  { h with st := fun hf => by simp [hst] at hf }

theorem SameBut.emit (h : SameBut w s t) (he : w.events = true) (e : Event) : SameBut w s (t.emit e) :=
  { h with events := fun hf => by simp [he] at hf }

theorem SameBut.pop (h : SameBut w s t) (hsp : w.sp = true) : SameBut w s t.pop :=
  { h with sp := fun hf => by simp [hsp] at hf }

theorem SameBut.push (h : SameBut w s t) (hsp : w.sp = true) (htop : w.stack (t.sp + 1) = true) (a : Word) :
    SameBut w s (t.push a) :=
  { h with
    sp := fun hf => by simp [hsp] at hf
    stack := fun k hk => by
      have hne : k ≠ t.sp + 1 := by rintro rfl; simp [htop] at hk
      rw [State.getElem_push, if_neg hne, h.stack k hk] }

theorem SameBut.setGfx (h : SameBut w s t) {g : Frame} (hg : ∀ j, ¬ w.gfx j → g.cell j = t.gfx.cell j) :
    SameBut w s (t.setGfx g) :=
  { h with gfx := fun j hj => (hg j hj).trans (h.gfx j hj) }

theorem SameBut.writeByte (h : SameBut w s t) {a : Nat} (ha : w.mem a = true) (b : Byte) :
    SameBut w s (t.writeByte a b) :=
  { h with
    mem := fun c hc => by
      have hne : c ≠ a := by rintro rfl; simp [ha] at hc
      rw [State.readByte_writeByte, if_neg hne, h.mem c hc] }

theorem SameBut.writeBytes (h : SameBut w s t) {a : Nat} {bs : List Byte}
    (ha : ∀ c, a ≤ c → c < a + bs.length → w.mem c = true) : SameBut w s (t.writeBytes a bs) := by
  induction bs generalizing t a with
  | nil => exact h
  | cons b bs ih =>
    simp only [List.length_cons] at ha
    exact ih (h.writeByte (ha a (by omega) (by omega)) b) fun c hac hc => ha c (by omega) (by omega)

/-! ### The instructions -/

/-- A flip leaves every other cell, and one outside the framebuffer leaves them all. -/
theorem Frame.cell_flip_of_ne (g : Frame) {i j : Nat} (h : j ≠ i) : (g.flip i).cell j = g.cell j := by
  by_cases hi : i < 2048
  · simp [Frame.cell_flip g i j hi, h]
  · have hrow : 32 ≤ i / 64 := by omega
    rw [Frame.flip, Vector.setIfInBounds_eq_of_size_le hrow]

theorem blit_cell_of_notMem {cells : List Nat} {j : Nat} (h : j ∉ cells) (g : Frame) (hit : Bool) :
    (blit cells (g, hit)).1.cell j = g.cell j := by
  induction cells generalizing g hit with
  | nil => rfl
  | cons k ks ih =>
    obtain ⟨hk, hks⟩ := not_or.1 (mt List.mem_cons.2 h)
    rw [blit, ih hks, Frame.cell_flip_of_ne g hk]

/-- The cells that DRW flips are those its set sprite bits fall on (44_display.md R233). -/
theorem State.covers_of_mem_drwCells {x y n : Nibble} {j : Nat} (h : j ∈ s.drwCells x y n) :
    s.Covers x y n j := by
  obtain ⟨r, c, b, hb, hc, hset, hj⟩ := mem_spriteCells.1 h
  rw [State.getElem?_readBytes] at hb
  split at hb
  · obtain rfl := Option.some.inj hb
    exact ⟨r, c, ‹_›, hc, hset, hj⟩
  · cases hb

theorem execDrw_sameBut {x y n : Nibble} (h : execDrw x y n s = .next t) :
    SameBut (mayWrite s (.drw x y n)) s t := by
  obtain ⟨-, -, rfl⟩ := execDrw_next h
  have hcells : ∀ j, ¬ s.Covers x y n j →
      (blit (s.drwCells x y n) (s.gfx, false)).1.cell j = s.gfx.cell j :=
    fun j hj => blit_cell_of_notMem (fun hmem => hj (State.covers_of_mem_drwCells hmem)) _ _
  exact ((((SameBut.refl _ s).setGfx hcells).setV rfl _).emit rfl _).advance

theorem execRet_sameBut (h : execRet s = .next t) : SameBut (mayWrite s .ret) s t := by
  simp only [execRet] at h
  split at h
  · cases h
  · obtain rfl := Host.Outcome.next.inj h
    exact ((SameBut.refl _ s).setPc _).pop rfl

theorem execCall_sameBut {nnn : Addr} (h : execCall nnn s = .next t) :
    SameBut (mayWrite s (.call nnn)) s t := by
  simp only [execCall] at h
  split at h
  · cases h
  · obtain rfl := Host.Outcome.next.inj h
    exact ((SameBut.refl _ s).push rfl (by simp [mayWrite]) _).setPc _

theorem SameBut.of_result {x : Nibble} {r : Byte} (hx : w.v x = true) (h : s.result x r = .next t) :
    SameBut w s t := by
  obtain rfl := Host.Outcome.next.inj h
  exact ((SameBut.refl w s).setV hx r).advance

theorem SameBut.of_flagged {x : Nibble} {r : Byte} {c : Bool} (hx : w.v x = true) (hvf : w.v vf = true)
    (h : s.flagged x r c = .next t) : SameBut w s t := by
  obtain rfl := Host.Outcome.next.inj h
  exact ((SameBut.refl w s).setFlagged hx hvf r c).advance

theorem SameBut.of_store {bs : List Byte} {len : Nat}
    (hw : ∀ c, s.base ≤ c → c < s.base + bs.length → w.mem c = true)
    (h : s.withRange len (.next (s.writeBytes s.base bs).advance) = .next t) : SameBut w s t := by
  obtain ⟨-, h⟩ := s.withRange_next h
  obtain rfl := Host.Outcome.next.inj h
  exact ((SameBut.refl w s).writeBytes hw).advance

theorem execLdVxK_sameBut {x : Nibble} (h : execLdVxK x s = .next t) :
    SameBut (mayWrite s (.ldVxK x)) s t := by
  obtain ⟨-, h⟩ := s.withExt_next h
  split at h
  · exact SameBut.of_result (by simp [mayWrite]) h
  · obtain rfl := Host.Outcome.next.inj h
    exact SameBut.refl _ s

end

/-- Settles O57, instruction by instruction: each is a chain of updates of pieces that its rules name. -/
theorem writersOfState : Obligations.WritersOfState := by
  intro i s t h
  cases i with
  | ret => exact execRet_sameBut h
  | call nnn => exact execCall_sameBut h
  | sys nnn => cases h
  | jp nnn =>
    obtain rfl := Host.Outcome.next.inj h
    exact (SameBut.refl _ s).setPc _
  | jpV0 nnn =>
    obtain ⟨-, h⟩ := s.withExt_next h
    obtain rfl := Host.Outcome.next.inj h
    exact (SameBut.refl _ s).setPc _
  | seImm | sneImm | seReg | sneReg =>
    obtain rfl := Host.Outcome.next.inj h
    exact (SameBut.refl _ s).skipIf _
  | skp x =>
    obtain ⟨-, h⟩ := s.withExt_next h
    obtain ⟨-, h⟩ := s.withKey_next h
    obtain rfl := Host.Outcome.next.inj h
    exact (SameBut.refl _ s).skipIf _
  | sknp x =>
    simp only [exec, execSknp] at h
    obtain ⟨-, h⟩ := s.withKey_next h
    obtain rfl := Host.Outcome.next.inj h
    exact (SameBut.refl _ s).skipIf _
  | ldImm | addImm | ldReg | andReg | rnd | ldVxDt => exact SameBut.of_result (by simp [mayWrite]) h
  | orReg | xorReg => exact SameBut.of_result (by simp [mayWrite]) (s.withExt_next h).2
  | addReg | subReg => exact SameBut.of_flagged (by simp [mayWrite]) (by simp [mayWrite]) h
  | shr | subnReg | shl =>
    exact SameBut.of_flagged (by simp [mayWrite]) (by simp [mayWrite]) (s.withExt_next h).2
  | cls =>
    obtain rfl := Host.Outcome.next.inj h
    exact ((SameBut.refl _ s).setGfx fun _ hj => absurd trivial hj).advance
  | ldI | ldF =>
    obtain rfl := Host.Outcome.next.inj h
    exact ((SameBut.refl _ s).setI rfl _).advance
  | addI x =>
    obtain ⟨-, h⟩ := s.withExt_next h
    obtain rfl := Host.Outcome.next.inj h
    exact ((SameBut.refl _ s).setI rfl _).advance
  | ldDtVx x =>
    obtain rfl := Host.Outcome.next.inj h
    exact ((SameBut.refl _ s).setDt rfl _).advance
  | ldStVx x =>
    obtain rfl := Host.Outcome.next.inj h
    exact ((SameBut.refl _ s).setSt rfl _).advance
  | drw x y n => exact execDrw_sameBut h
  | ldVxK x => exact execLdVxK_sameBut h
  | ldB x =>
    refine SameBut.of_store (bs := bcdDigits (s.getV x)) (fun c hlo hhi => ?_) h
    simp only [bcdDigits, List.length_cons, List.length_nil] at hhi
    simp only [mayWrite, decide_eq_true_eq]
    omega
  | ldMemVx x =>
    refine SameBut.of_store (fun c hlo hhi => ?_) (s.withExt_next h).2
    rw [s.length_firstRegs (by omega)] at hhi
    simp only [mayWrite, decide_eq_true_eq]
    omega
  | ldVxMem x =>
    obtain ⟨-, h⟩ := s.withRange_next h
    obtain rfl := Host.Outcome.next.inj h
    exact ((SameBut.refl _ s).loadBlock (by simp [mayWrite])).advance

end Sys2Proof.Machine
end

section
/-! PROOFS. No instruction reads ST, TP or LOADED (10_state.md R31, R34, R38): each operation of the state
commutes with replacing them. -/

namespace Sys2Proof.Machine

/-- `s` with other values of the three pieces that no instruction reads. -/
def State.withHidden (s : State) (a : Byte) (b c : Bool) : State := { s with st := a, tp := b, loaded := c }

section
variable (s : State) (a : Byte) (b c : Bool)

/-! ### Reads -/

theorem State.withHidden_cfg : (s.withHidden a b c).cfg = s.cfg := rfl

theorem State.readBytes_withHidden (k n : Nat) :
    (s.withHidden a b c).readBytes k n = s.readBytes k n := by
  induction n generalizing k with
  | zero => rfl
  | succ n ih => exact congrArg (s.readByte k :: ·) (ih (k + 1))

theorem State.drwCells_withHidden (x y n : Nibble) :
    (s.withHidden a b c).drwCells x y n = s.drwCells x y n :=
  congrArg (spriteCells s.cfg.drawPolicy (s.getV x).toNat (s.getV y).toNat)
    (s.readBytes_withHidden a b c s.base n.toNat)

theorem State.leastPressed_withHidden (k n : Nat) :
    (s.withHidden a b c).leastPressed k n = s.leastPressed k n := by
  induction n generalizing k with
  | zero => rfl
  | succ n ih =>
    simp only [State.leastPressed, ih]
    rfl

theorem State.firstPressed_withHidden : (s.withHidden a b c).firstPressed = s.firstPressed :=
  s.leastPressed_withHidden a b c 0 16

/-! ### Updates -/

theorem State.skipIf_withHidden (p : Bool) :
    (s.withHidden a b c).skipIf p = (s.skipIf p).withHidden a b c := by
  cases p <;> rfl

theorem State.writeBytes_withHidden (k : Nat) (bs : List Byte) :
    (s.withHidden a b c).writeBytes k bs = (s.writeBytes k bs).withHidden a b c := by
  induction bs generalizing s k with
  | nil => rfl
  | cons d bs ih => exact ih (s.writeByte k d) (k + 1)

/-! ### Checks -/

variable {s a b c} {g : State → State}

/-- `onNext` goes into the branches of a check. -/
theorem ite_onNext {p : Prop} [Decidable p] {k k' r r' : Result} (hk : k' = onNext g k)
    (hr : r' = onNext g r) : (if p then k' else r') = onNext g (if p then k else r) := by
  split
  · exact hk
  · exact hr

theorem State.withExt_withHidden {k k' : Result} (h : k' = onNext g k) :
    (s.withHidden a b c).withExt k' = onNext g (s.withExt k) :=
  ite_onNext h rfl

theorem State.withRange_withHidden {len : Nat} {k k' : Result} (h : k' = onNext g k) :
    (s.withHidden a b c).withRange len k' = onNext g (s.withRange len k) :=
  ite_onNext h rfl

theorem State.withKey_withHidden {x : Nibble} {k k' : Nibble → Result} (h : ∀ q, k' q = onNext g (k q)) :
    (s.withHidden a b c).withKey x k' = onNext g (s.withKey x k) :=
  ite_onNext (h _) rfl

/-! ### Instructions with more than one outcome -/

theorem execRet_withHidden : execRet (s.withHidden a b c) = onNext (·.withHidden a b c) (execRet s) :=
  ite_onNext rfl rfl

theorem execCall_withHidden (nnn : Addr) :
    execCall nnn (s.withHidden a b c) = onNext (·.withHidden a b c) (execCall nnn s) :=
  ite_onNext rfl rfl

theorem execDrw_withHidden (x y n : Nibble) :
    execDrw x y n (s.withHidden a b c) = onNext (·.withHidden a b c) (execDrw x y n s) := by
  refine State.withRange_withHidden ?_
  rw [State.drwCells_withHidden, State.withHidden_cfg]
  cases drawOutside s.cfg.drawPolicy (s.drwCells x y n) <;> rfl

theorem execLdVxK_withHidden (x : Nibble) :
    execLdVxK x (s.withHidden a b c) = onNext (·.withHidden a b c) (execLdVxK x s) := by
  refine State.withExt_withHidden ?_
  rw [State.firstPressed_withHidden]
  cases s.firstPressed <;> rfl

theorem State.next_skipIf_withHidden (p : Bool) :
    (.next ((s.withHidden a b c).skipIf p) : Result) = onNext (·.withHidden a b c) (.next (s.skipIf p)) :=
  congrArg Host.Outcome.next (s.skipIf_withHidden a b c p)

theorem State.next_writeBytes_withHidden (bs : List Byte) :
    (.next ((s.withHidden a b c).writeBytes s.base bs).advance : Result) =
      onNext (·.withHidden a b c) (.next (s.writeBytes s.base bs).advance) :=
  congrArg (fun u : State => Host.Outcome.next u.advance) (s.writeBytes_withHidden a b c s.base bs)

end

/-- Settles O59, instruction by instruction: none of the operations an instruction is made of reads the three
pieces, and LD ST alone writes one. -/
theorem hiddenStateUnread : Obligations.HiddenStateUnread := by
  intro i s a b c
  cases i with
  | ret => exact execRet_withHidden
  | call nnn => exact execCall_withHidden nnn
  | seImm | sneImm | seReg | sneReg => exact State.next_skipIf_withHidden _
  | skp x =>
    exact State.withExt_withHidden (State.withKey_withHidden fun _ => State.next_skipIf_withHidden _)
  | sknp x => exact State.withKey_withHidden fun _ => State.next_skipIf_withHidden _
  | drw x y n => exact execDrw_withHidden x y n
  | ldVxK x => exact execLdVxK_withHidden x
  | ldB x => exact State.withRange_withHidden (State.next_writeBytes_withHidden _)
  | ldMemVx x =>
    exact State.withExt_withHidden (State.withRange_withHidden (State.next_writeBytes_withHidden _))
  | ldVxMem x => exact State.withRange_withHidden rfl
  | orReg | xorReg | shr | subnReg | shl | jpV0 | addI => exact State.withExt_withHidden rfl
  | cls | sys | jp | ldImm | addImm | ldReg | andReg | addReg | subReg | ldI | rnd | ldVxDt | ldDtVx
  | ldStVx | ldF => rfl

end Sys2Proof.Machine
end

section
/-! PROOFS. Memory (20_memory.md): the fetch, the check of the whole range through I before any access, and the
bytes that a store leaves for later fetches. -/

namespace Sys2Proof.Machine

section
variable {s t : State}

/-! ### The fetch (R65) -/

/-- The fetched word, where `byteAt` gives the bytes that memory reads as. -/
theorem State.fetch_big_endian {byteAt : Nat → Nat} (hbytes : ∀ a, (s.readByte a).toNat = byteAt a)
    (hpc : s.pc.toNat < 0xFFF) :
    ∃ w, s.fetch = .ok w ∧ w.toNat = byteAt s.pc.toNat * 256 + byteAt (s.pc.toNat + 1) :=
  ⟨_, s.fetch_of_lt hpc, by rw [toNat_wordOfBytes, hbytes, hbytes]⟩

/-- After a Cycle that completes, OP is the word it fetched (10_state.md R35): no instruction writes OP. -/
theorem cycle_op {w : Word} (hw : s.fetch = .ok w) (h : cycle s = .next t) : t.op = w := by
  obtain ⟨w', i, u, hw', -, hu, rfl⟩ := cycle_next s h
  obtain rfl : w' = w := Except.ok.inj (hw'.symm.trans hw)
  rw [State.service_op]
  exact (writersOfState i _ u hu).op

theorem cycle_of_fetch_error {f : Fault} (h : s.fetch = .error f) : cycle s = .fault f := by
  simp only [cycle, h]

/-! ### The range through I (R64) -/

/-- Every instruction that accesses a range through I checks EXT_STD where it is of R100, then the whole range,
and past both checks it never raises MEM_RANGE. -/
theorem exec_of_rangeLen {i : Instr} {len : Nat} (hlen : rangeLen i = some len) (s : State) :
    ∃ k : Result, (∀ w j, k ≠ .fault (.memRange w j)) ∧
      exec i s = if i.isExt then s.withExt (s.withRange len k) else s.withRange len k := by
  cases i with
  | drw x y n =>
    obtain rfl := Option.some.inj hlen
    refine ⟨_, fun w j => ?_, rfl⟩
    split <;> simp [State.raise]
  | ldB x | ldMemVx x | ldVxMem x =>
    obtain rfl := Option.some.inj hlen
    exact ⟨.next _, nofun, rfl⟩
  | _ => cases hlen

/-- A range that leaves RAM raises MEM_RANGE, on a core that has the instruction (60_exceptions.md R276). -/
theorem exec_eq_memRange {i : Instr} {len : Nat} (hlen : rangeLen i = some len) (hpos : len ≠ 0)
    (hext : i.isExt = true → s.cfg.extStd = true) (hout : memSize < s.base + len) :
    exec i s = .fault (.memRange s.op (max s.base memSize)) := by
  obtain ⟨k, -, hexec⟩ := exec_of_rangeLen hlen s
  rw [hexec, s.withRange_of_lt hpos hout]
  split
  · exact s.withExt_true (hext ‹_›)
  · rfl

/-- MEM_RANGE is raised only for a range of one byte or more that leaves RAM. -/
theorem memSize_lt_of_exec_memRange {i : Instr} {len j : Nat} {w : Word} (hlen : rangeLen i = some len)
    (h : exec i s = .fault (.memRange w j)) : len ≠ 0 ∧ memSize < s.base + len := by
  obtain ⟨k, hk, hexec⟩ := exec_of_rangeLen hlen s
  have hrange : s.withRange len k = .fault (.memRange w j) := by
    rw [hexec] at h
    split at h
    · obtain ⟨hf, -⟩ | ⟨-, h⟩ := s.withExt_fault h
      · cases hf
      · exact h
    · exact h
  obtain ⟨-, h⟩ | ⟨hpos, hout, -⟩ := s.withRange_fault hrange
  · exact absurd h (hk w j)
  · exact ⟨hpos, hout⟩

/-! ### The bytes that a store leaves (43_index_memory.md R203, R204) -/

theorem State.readByte_of_store {bs : List Byte} {len : Nat}
    (h : s.withRange len (.next (s.writeBytes s.base bs).advance) = .next t) (a : Nat) :
    t.readByte a = if s.base ≤ a then (bs[a - s.base]?).getD (s.readByte a) else s.readByte a := by
  obtain ⟨-, h⟩ := s.withRange_next h
  obtain rfl := Host.Outcome.next.inj h
  exact s.readByte_writeBytes s.base bs a

theorem State.getElem?_firstRegs_eq_getV {n k : Nat} (hn : n ≤ 16) :
    (s.firstRegs n)[k]? = if k < n then some (s.getV (BitVec.ofNat 4 k)) else none := by
  rw [State.getElem?_firstRegs]
  split
  · have hk : k < 16 := by omega
    simp [State.getV, Nat.mod_eq_of_lt hk, hk]
  · rfl

/-- A digit is below 256, so its byte holds it. -/
theorem toNat_bcdDigits_getD (b d : Byte) (k : Nat) :
    ((bcdDigits b)[k]?.getD d).toNat =
      if k = 0 then b.toNat / 100
      else if k = 1 then b.toNat / 10 % 10
      else if k = 2 then b.toNat % 10
      else d.toNat :=
  match k with
  | 0 | 1 | 2 => Nat.mod_eq_of_lt (by omega)
  | _ + 3 => rfl

/-- LD B, Vx leaves the decimal digits of V[x] at I, I + 1 and I + 2. -/
theorem execLdB_readByte {x : Nibble} (h : exec (.ldB x) s = .next t) (a : Nat) :
    (t.readByte a).toNat =
      if a = s.base then (s.getV x).toNat / 100
      else if a = s.base + 1 then (s.getV x).toNat / 10 % 10
      else if a = s.base + 2 then (s.getV x).toNat % 10
      else (s.readByte a).toNat := by
  rw [State.readByte_of_store (bs := bcdDigits (s.getV x)) h a]
  by_cases hlo : s.base ≤ a
  · rw [if_pos hlo, toNat_bcdDigits_getD]
    simp only [Nat.sub_eq_iff_eq_add' hlo, Nat.add_zero]
  · rw [if_neg hlo, if_neg (by omega), if_neg (by omega), if_neg (by omega)]

/-- LD [I], Vx leaves V[0] to V[x] at I to I + x. -/
theorem execLdMemVx_readByte {x : Nibble} (h : exec (.ldMemVx x) s = .next t) (a : Nat) :
    (t.readByte a).toNat =
      if s.base ≤ a ∧ a ≤ s.base + x.toNat then (s.getV (BitVec.ofNat 4 (a - s.base))).toNat
      else (s.readByte a).toNat := by
  rw [State.readByte_of_store (s.withExt_next h).2 a, State.getElem?_firstRegs_eq_getV (by omega)]
  by_cases hlo : s.base ≤ a
  · have hhi : a - s.base < x.toNat + 1 ↔ a ≤ s.base + x.toNat := by omega
    simp only [hlo, hhi, if_true, true_and]
    split <;> rfl
  · simp [hlo]

end

/-- Settles O30: every instruction with a range goes through the one check, whose address is the greater of I
and 0x1000; and no faulting Cycle writes anything but OP. -/
theorem wholeRangeChecked : Obligations.WholeRangeChecked := by
  refine ⟨fun i s len hlen hpos hext hout => ?_, fun i s len hlen hin w j h => ?_, fun s _ _ _ => ?_⟩
  · have hout' : memSize < s.base + len := by simp only [State.base, memSize]; omega
    exact ⟨max s.i.toNat 0x1000, exec_eq_memRange hlen hpos.ne' hext hout', le_max_left _ _, by omega,
      le_max_right _ _, fun a _ _ => by omega⟩
  · obtain ⟨hpos, hout⟩ := memSize_lt_of_exec_memRange hlen h
    simp only [State.base, memSize] at hout
    omega
  · rw [faulted_slot]
    exact faulted_eq s

/-- Settles O31: a fetch reads the two bytes at pc, and what either store leaves is known at every address. -/
theorem storeThenFetch : Obligations.StoreThenFetch := by
  constructor
  · intro x s t u h hmem hpc
    have hfetch := State.fetch_big_endian
      (fun a => (congrArg BitVec.toNat (hmem a)).trans (execLdB_readByte h a)) hpc
    exact hfetch
  · intro x s t u h hmem hpc
    have hfetch := State.fetch_big_endian
      (fun a => (congrArg BitVec.toNat (hmem a)).trans (execLdMemVx_readByte h a)) hpc
    exact hfetch

/-- Settles O3: below 0xFFF the fetch gives the word of the two bytes, which OP keeps; from there on it faults
before a word is read. -/
theorem fetchBigEndian : Obligations.FetchBigEndian := by
  refine fun s => ⟨fun hpc => ?_, fun hpc => ?_⟩
  · obtain ⟨w, hw, hval⟩ := State.fetch_big_endian (s := s) (fun _ => rfl) hpc
    exact ⟨w, hw, hval, fun t h => cycle_op hw h⟩
  · have hfetch := s.fetch_of_le hpc
    exact ⟨cycle_of_fetch_error hfetch, by rw [faulted_of_fetch_error hfetch, State.beginCycle_op]⟩

end Sys2Proof.Machine
end

section
/-! PROOFS. Decode undoes the encoder, and does not see the bits that an instruction ignores (30_encoding.md
R91, R92, R99, R100, R103). -/

namespace Sys2Proof

section
variable {ext : Bool} {w m : Word} {i : Instr}

/-! ### Decode of an encoded instruction -/

/-- A word of the family 0x0 that is neither CLS nor RET is SYS (R102). -/
theorem decodeSys_of_ne (hE0 : fieldNN w ≠ 0xE0#8) (hEE : fieldNN w ≠ 0xEE#8) :
    decodeSys w = .sys (fieldNNN w) := by
  simp only [decodeSys]
  split
  · exact absurd (BitVec.eq_of_toNat_eq ‹_›) hE0
  · exact absurd (BitVec.eq_of_toNat_eq ‹_›) hEE
  · rfl

/-- Only a core with EXT_STD has the instructions of R100. -/
theorem Instr.ext_of_wfIn (h : i.wfIn ext = true) (hext : i.isExt = true) : ext = true := by
  simpa [Instr.wfIn, hext] using (Bool.and_eq_true_iff.1 h).2

theorem decode_encode_sys {nnn : Addr} (h : (Instr.sys nnn).wf = true) :
    decode ext (encode (.sys nnn)) = .ok (.sys nnn) := by
  simp only [Instr.wf, Bool.and_eq_true, bne_iff_ne] at h
  obtain ⟨hE0, hEE⟩ := h
  have hsys : decodeSys (wordNNN 0x0#4 nnn) = .sys nnn := by
    rw [decodeSys_of_ne (by rwa [fieldNN_wordNNN]) (by rwa [fieldNN_wordNNN]), fieldNNN_wordNNN]
  simp [decode, encode, hsys]

/-- Decode reads every field of an encoded instruction back: by the primary key alone, or by the secondary key
of the families 0x8, 0xE and 0xF, on a core with EXT_STD where the instruction is of R100. -/
theorem decode_encode (h : i.wfIn ext = true) : decode ext (encode i) = .ok i := by
  cases i with
  | cls | ret => rfl
  | sys nnn => exact decode_encode_sys (Bool.and_eq_true_iff.1 h).1
  | jp | call | seImm | sneImm | seReg | ldImm | addImm | sneReg | ldI | rnd | drw =>
    simp [decode, encode]
  | jpV0 =>
    obtain rfl := Instr.ext_of_wfIn h rfl
    simp [decode, encode]
  | ldReg | andReg | addReg | subReg => simp [decode, decodeAlu, encode]
  | orReg | xorReg | shr | subnReg | shl =>
    obtain rfl := Instr.ext_of_wfIn h rfl
    simp [decode, decodeAlu, encode]
  | sknp => simp [decode, decodeKey, encode]
  | skp =>
    obtain rfl := Instr.ext_of_wfIn h rfl
    simp [decode, decodeKey, encode]
  | ldVxDt | ldDtVx | ldStVx | ldF | ldB | ldVxMem => simp [decode, decodeMisc, encode]
  | ldVxK | addI | ldMemVx =>
    obtain rfl := Instr.ext_of_wfIn h rfl
    simp [decode, decodeMisc, encode]

theorem decodeBytes_encodeBytes (h : decode ext (encode i) = .ok i) (rest : List Byte) :
    decodeBytes ext (encodeBytes i ++ rest) = .ok (i, rest) := by
  simp [decodeBytes, encodeBytes, h]

/-! ### Ignored bits (R103) -/

theorem fieldF_and_of_allOnes (hm : fieldF m = BitVec.allOnes 4) : fieldF (w &&& m) = fieldF w := by
  rw [fieldF_and, hm, BitVec.and_allOnes]

theorem fieldX_and_of_allOnes (hm : fieldX m = BitVec.allOnes 4) : fieldX (w &&& m) = fieldX w := by
  rw [fieldX_and, hm, BitVec.and_allOnes]

theorem fieldY_and_of_allOnes (hm : fieldY m = BitVec.allOnes 4) : fieldY (w &&& m) = fieldY w := by
  rw [fieldY_and, hm, BitVec.and_allOnes]

theorem fieldN_and_of_allOnes (hm : fieldN m = BitVec.allOnes 4) : fieldN (w &&& m) = fieldN w := by
  rw [fieldN_and, hm, BitVec.and_allOnes]

/-- The families 5 and 9 have no secondary key: Decode reads F, X and Y. -/
theorem decode_congr_skipReg {w' : Word} (hfam : fieldF w = 0x5#4 ∨ fieldF w = 0x9#4)
    (hF : fieldF w' = fieldF w) (hX : fieldX w' = fieldX w) (hY : fieldY w' = fieldY w) :
    decode ext w = decode ext w' := by
  obtain h | h := hfam <;> simp [decode, hF, hX, hY, h]

/-- Of a shift, Decode reads F, X and N. -/
theorem decode_congr_shift {w' : Word} (hfam : fieldF w = 0x8#4)
    (hsub : fieldN w = 0x6#4 ∨ fieldN w = 0xE#4)
    (hF : fieldF w' = fieldF w) (hX : fieldX w' = fieldX w) (hN : fieldN w' = fieldN w) :
    decode true w = decode true w' := by
  obtain h | h := hsub <;> simp [decode, decodeAlu, hF, hX, hN, hfam, h]

end

/-- Settles O7, by cases on the instruction; the bytes of a word, high byte first, are the word again. -/
theorem decodeEncode : Obligations.DecodeEncode :=
  fun _ _ rest h => ⟨decode_encode h, decodeBytes_encodeBytes (decode_encode h) rest⟩

/-- Settles O5: Decode evaluates each of the eleven words. -/
theorem writtenWordsDecode : Obligations.WrittenWordsDecode :=
  ⟨rfl, rfl, rfl, rfl, rfl, rfl, rfl, rfl, rfl, rfl, rfl⟩

/-- Settles O10: the mask of each row keeps every field that Decode reads of such a word. -/
theorem ignoredBits : Obligations.IgnoredBits := by
  refine ⟨fun ext w h => ?_, fun ext w h => ?_, fun ext w hfam => ?_, fun w hfam hsub => ?_⟩
  · obtain ⟨hF, hNN⟩ := (byte_key w 0x0#4 0xE0#8).1 h
    simp [decode, decodeSys, hF, hNN]
  · obtain ⟨hF, hNN⟩ := (byte_key w 0x0#4 0xEE#8).1 h
    simp [decode, decodeSys, hF, hNN]
  · exact decode_congr_skipReg hfam (fieldF_and_of_allOnes (by decide))
      (fieldX_and_of_allOnes (by decide)) (fieldY_and_of_allOnes (by decide))
  · exact decode_congr_shift hfam hsub (fieldF_and_of_allOnes (by decide))
      (fieldX_and_of_allOnes (by decide)) (fieldN_and_of_allOnes (by decide))

end Sys2Proof
end

section
/-! PROOFS. Decode, by dispatch on the fields, and the opcode table, by first match, agree (30_encoding.md R97,
R98, R105, R109). The masks of all rows keep the family nibble, so a word selects rows of its own family only:
the proof goes family by family. -/

namespace Sys2Proof

section
variable {ext : Bool} {w p : Word}

/-! ### The keys of a row, as the numbers that Decode matches on -/

theorem toNat_fieldF (w : Word) : (fieldF w).toNat = w.toNat / 4096 := by
  have hlt := w.isLt
  simp only [fieldF, BitVec.extractLsb'_toNat, Nat.shiftRight_eq_div_pow]
  omega

theorem toNat_fieldN (w : Word) : (fieldN w).toNat = w.toNat % 16 := by
  simp [fieldN, BitVec.extractLsb'_toNat]

theorem toNat_fieldNN (w : Word) : (fieldNN w).toNat = w.toNat % 256 := by
  simp [fieldNN, BitVec.extractLsb'_toNat]

theorem and_primary_iff (hp : wordNNN (fieldF p) 0#12 = p) :
    w &&& 0xF000#16 = p ↔ (fieldF w).toNat = p.toNat / 4096 := by
  rw [← toNat_fieldF, BitVec.toNat_inj, ← primary_key, hp]

theorem and_byte_iff (hp : wordXNN (fieldF p) 0#4 (fieldNN p) = p) :
    w &&& 0xF0FF#16 = p ↔ (fieldF w).toNat = p.toNat / 4096 ∧ (fieldNN w).toNat = p.toNat % 256 := by
  rw [← toNat_fieldF, ← toNat_fieldNN, BitVec.toNat_inj, BitVec.toNat_inj, ← byte_key, hp]

theorem and_nibble_iff (hp : word4 (fieldF p) 0#4 0#4 (fieldN p) = p) :
    w &&& 0xF00F#16 = p ↔ (fieldF w).toNat = p.toNat / 4096 ∧ (fieldN w).toNat = p.toNat % 16 := by
  rw [← toNat_fieldF, ← toNat_fieldN, BitVec.toNat_inj, BitVec.toNat_inj, ← nibble_key, hp]

/-! ### The first match, row by row -/

/-- The first-match reading of any list of rows. -/
def firstMatch (ext : Bool) (w : Word) : List OpcodeRow → Except DecodeError Instr
  | [] => .error (.unsupported w)
  | r :: rs =>
    if (r.ext = true → ext = true) ∧ w &&& r.mask = r.pat then .ok (r.build w) else firstMatch ext w rs

theorem tableDecode_eq_firstMatch (ext : Bool) (w : Word) :
    tableDecode ext w = firstMatch ext w opcodeTable := by
  rw [tableDecode]
  induction opcodeTable with
  | nil => rfl
  | cons r rs ih =>
    have hsel : (r.ext = true → ext = true) ∧ w &&& r.mask = r.pat ↔
        ((ext || !r.ext) && (w &&& r.mask == r.pat)) = true := by
      cases ext <;> cases r.ext <;> simp
    simp only [firstMatch, hsel, List.find?_cons, ← ih]
    cases (ext || !r.ext) && (w &&& r.mask == r.pat) <;> rfl

/-! ### The rows of one family -/

/-- The rows of the table whose words have the family nibble `f`, in decode order. -/
def familyRows (f : Nibble) : List OpcodeRow := opcodeTable.filter (fun r => fieldF r.pat == f)

theorem fieldF_mask_opcodeTable : ∀ r ∈ opcodeTable, fieldF r.mask = BitVec.allOnes 4 := by decide

/-- Where every mask keeps the family nibble, the rows of the other families are never selected. -/
theorem firstMatch_filter_family {rows : List OpcodeRow}
    (hmask : ∀ r ∈ rows, fieldF r.mask = BitVec.allOnes 4) :
    firstMatch ext w (rows.filter (fun r => fieldF r.pat == fieldF w)) = firstMatch ext w rows := by
  induction rows with
  | nil => rfl
  | cons r rs ih =>
    obtain ⟨hr, hrs⟩ := List.forall_mem_cons.1 hmask
    by_cases hfam : fieldF r.pat = fieldF w
    · simp [hfam, firstMatch, ih hrs]
    · have hsel : w &&& r.mask ≠ r.pat := fun h => hfam (by rw [← h, fieldF_and_of_allOnes hr])
      simp [hfam, hsel, firstMatch, ih hrs]

theorem fieldF_eq_of_toNat {k : Nat} (hF : (fieldF w).toNat = k) : fieldF w = BitVec.ofNat 4 k := by
  rw [← hF, BitVec.ofNat_toNat, BitVec.setWidth_eq]

theorem tableDecode_eq_family {k : Nat} (hF : (fieldF w).toNat = k) :
    tableDecode ext w = firstMatch ext w (familyRows (BitVec.ofNat 4 k)) := by
  rw [tableDecode_eq_firstMatch, ← firstMatch_filter_family fieldF_mask_opcodeTable,
    fieldF_eq_of_toNat hF, familyRows]

/-! ### Family by family -/

/-- A family with one row, whose key is the family nibble alone. -/
theorem tableDecode_of_primary {k : Nat} {b : Word → Instr} (hF : (fieldF w).toNat = k)
    (hrow : familyRows (BitVec.ofNat 4 k) = [⟨0xF000#16, wordNNN (BitVec.ofNat 4 k) 0#12, false, b⟩]) :
    tableDecode ext w = .ok (b w) := by
  rw [tableDecode_eq_family hF, hrow]
  exact if_pos ⟨nofun, (primary_key w _).2 (fieldF_eq_of_toNat hF)⟩

theorem tableDecode_familyB (hF : (fieldF w).toNat = 0xB) :
    tableDecode ext w = if ext then .ok (.jpV0 (fieldNNN w)) else .error (.unsupported w) := by
  rw [tableDecode_eq_family hF, show familyRows _ = [opcodeRowsMid[11]] from rfl]
  simp [opcodeRowsMid, firstMatch, and_primary_iff (p := 0xB000#16) (by decide), hF]

theorem decodeSys_eq_tableDecode (hF : (fieldF w).toNat = 0x0) :
    .ok (decodeSys w) = tableDecode ext w := by
  rw [tableDecode_eq_family hF, show familyRows _ = opcodeRowsLow.take 3 from rfl]
  simp only [opcodeRowsLow, List.take_succ_cons, List.take_zero, firstMatch]
  simp (disch := decide) only [and_byte_iff, and_primary_iff, hF]
  simp only [decodeSys]
  split
  -- Any other low byte selects the row of SYS.
  case h_3 => grind
  all_goals simp [*]

theorem decodeAlu_eq_tableDecode (hF : (fieldF w).toNat = 0x8) :
    decodeAlu ext w = tableDecode ext w := by
  rw [tableDecode_eq_family hF, show familyRows _ = opcodeRowsMid.take 9 from rfl]
  simp only [opcodeRowsMid, List.take_succ_cons, List.take_zero, firstMatch]
  simp (disch := decide) only [and_nibble_iff, hF]
  simp only [decodeAlu]
  split
  -- Any other low nibble, or one of R100 without EXT_STD, selects none of the nine rows.
  case h_10 => grind
  all_goals simp [*]

theorem decodeKey_eq_tableDecode (hF : (fieldF w).toNat = 0xE) :
    decodeKey ext w = tableDecode ext w := by
  rw [tableDecode_eq_family hF, show familyRows _ = opcodeRowsHigh.take 2 from rfl]
  simp only [opcodeRowsHigh, List.take_succ_cons, List.take_zero, firstMatch]
  simp (disch := decide) only [and_byte_iff, hF]
  simp only [decodeKey]
  split
  -- Any other low byte, or 0x9E without EXT_STD, selects neither row.
  case h_3 => grind
  all_goals simp [*]

theorem decodeMisc_eq_tableDecode (hF : (fieldF w).toNat = 0xF) :
    decodeMisc ext w = tableDecode ext w := by
  rw [tableDecode_eq_family hF, show familyRows _ = opcodeRowsHigh.drop 2 from rfl]
  simp only [opcodeRowsHigh, List.drop_succ_cons, List.drop_zero, firstMatch]
  simp (disch := decide) only [and_byte_iff, hF]
  simp only [decodeMisc]
  split
  -- Any other low byte, or one of R100 without EXT_STD, selects none of the nine rows.
  case h_10 => grind
  all_goals simp [*]

end

/-- Settles O6, family by family: the first match among the rows of the word's family is the answer of
Decode's dispatch. -/
theorem decodeFollowsTable : Obligations.DecodeFollowsTable := by
  intro ext w
  simp only [decode]
  split
  case h_1 hF => exact decodeSys_eq_tableDecode hF
  case h_9 hF => exact decodeAlu_eq_tableDecode hF
  case h_12 hF => rw [tableDecode_familyB hF, if_pos rfl]
  case h_15 hF => exact decodeKey_eq_tableDecode hF
  case h_16 hF => exact decodeMisc_eq_tableDecode hF
  -- The one family left is 0xB, without EXT_STD.
  case h_17 =>
    rename_i hB
    have hlt := (fieldF w).isLt
    have hF : (fieldF w).toNat = 0xB := by grind
    rw [tableDecode_familyB hF, if_neg (hB hF)]
  -- The eleven families whose one row every core has.
  all_goals
    rename_i hF
    exact (tableDecode_of_primary hF rfl).symm

end Sys2Proof
end

section
/-! PROOFS. The words that are no instruction (30_encoding.md R101), what a step makes of a word that is one
(R95, R96; 60_exceptions.md R280), and that nothing is refused (R104). -/

namespace Sys2Proof

/-! ### Unsupported words -/

section
variable {ext : Bool} {w : Word} {i : Instr}

theorem decodeAlu_eq_error_iff : decodeAlu ext w = .error (.unsupported w) ↔
    fieldN w ∈ [0x8#4, 0x9#4, 0xA#4, 0xB#4, 0xC#4, 0xD#4, 0xF#4] ∨
      (ext = false ∧ fieldN w ∈ [0x1#4, 0x3#4, 0x6#4, 0x7#4, 0xE#4]) := by
  have hlt := (fieldN w).isLt
  simp only [decodeAlu, List.mem_cons, List.not_mem_nil, or_false, ← BitVec.toNat_inj, BitVec.reduceToNat]
  split
  case h_10 => grind
  all_goals simp [*]

theorem decodeKey_eq_error_iff : decodeKey ext w = .error (.unsupported w) ↔
    fieldNN w ≠ 0xA1#8 ∧ (ext = false ∨ fieldNN w ≠ 0x9E#8) := by
  simp only [decodeKey, ne_eq, ← BitVec.toNat_inj, BitVec.reduceToNat]
  split
  case h_3 => grind
  all_goals simp [*]

theorem decodeMisc_eq_error_iff : decodeMisc ext w = .error (.unsupported w) ↔
    fieldNN w ∉ [0x07#8, 0x15#8, 0x18#8, 0x29#8, 0x33#8, 0x65#8] ∧
      (ext = false ∨ fieldNN w ∉ [0x0A#8, 0x1E#8, 0x55#8]) := by
  simp only [decodeMisc, List.mem_cons, List.not_mem_nil, or_false, ← BitVec.toNat_inj, BitVec.reduceToNat]
  split
  case h_10 => grind
  all_goals simp [*]

/-- The primary key leaves a word unsupported only for 0xB without EXT_STD; the families 0x8, 0xE and 0xF leave
it to their secondary key. -/
theorem decode_eq_unsupported_iff : decode ext w = .error (.unsupported w) ↔
    (fieldF w = 0x8#4 ∧ decodeAlu ext w = .error (.unsupported w)) ∨
    (fieldF w = 0xB#4 ∧ ext = false) ∨
    (fieldF w = 0xE#4 ∧ decodeKey ext w = .error (.unsupported w)) ∨
    (fieldF w = 0xF#4 ∧ decodeMisc ext w = .error (.unsupported w)) := by
  have hlt := (fieldF w).isLt
  simp only [decode, ← BitVec.toNat_inj, BitVec.reduceToNat]
  split
  case h_17 => grind
  all_goals simp [*]

theorem decodeBytes_pair_eq_ok_iff {hi lo : Byte} :
    decodeBytes ext [hi, lo] = .ok (i, []) ↔ decode ext (wordOfBytes hi lo) = .ok i := by
  simp only [decodeBytes]
  cases decode ext (wordOfBytes hi lo) <;> simp

end

namespace Machine

section
variable {s : State} {r : Refusal}

theorem cycle_of_decode_error {w : Word} {e : DecodeError} (hw : s.fetch = .ok w)
    (he : decode s.cfg.extStd w = .error e) : cycle s = .fault (decodeFault w e) := by
  simp only [cycle, hw, he]

/-! ### A step of a word that decodes -/

/-- The Ticker's turn changes nothing that fetch and Decode read. -/
theorem step_of_decoded {i : Instr} (hpc : s.pc.toNat < 0xFFF)
    (h : decodeBytes s.cfg.extStd [s.readByte s.pc.toNat, s.readByte (s.pc.toNat + 1)] = .ok (i, [])) :
    step s = finish (exec i ((tickerTurn s).beginCycle.setOp
      (wordOfBytes (s.readByte s.pc.toNat) (s.readByte (s.pc.toNat + 1))))) :=
  have hfetch := (State.fetch_congr (t := tickerTurn s) rfl rfl rfl).trans (s.fetch_of_lt hpc)
  cycle_of_decoded _ hfetch (decodeBytes_pair_eq_ok_iff.1 h)

/-! ### Nothing is refused: a check refuses only what it guards, and no instruction does -/

theorem State.withRange_refused {len : Nat} {k : Result} (h : s.withRange len k = .refused r) :
    k = .refused r := by
  simp only [State.withRange] at h
  split at h
  · exact h
  · cases h

theorem State.withKey_refused {x : Nibble} {k : Nibble → Result} (h : s.withKey x k = .refused r) :
    ∃ q, k q = .refused r := by
  simp only [State.withKey] at h
  split at h
  · exact ⟨_, h⟩
  · cases h

theorem State.withExt_refused {k : Result} (h : s.withExt k = .refused r) : k = .refused r := by
  simp only [State.withExt] at h
  split at h
  · exact h
  · cases h

theorem execRet_ne_refused : execRet s ≠ .refused r := by
  simp only [execRet]
  split <;> nofun

theorem execCall_ne_refused {nnn : Addr} : execCall nnn s ≠ .refused r := by
  simp only [execCall]
  split <;> nofun

theorem execDrw_ne_refused {x y n : Nibble} : execDrw x y n s ≠ .refused r := by
  intro h
  have hdraw := State.withRange_refused h
  split at hdraw <;> cases hdraw

theorem execLdVxK_ne_refused {x : Nibble} : execLdVxK x s ≠ .refused r := by
  intro h
  have hwait := State.withExt_refused h
  split at hwait <;> cases hwait

theorem exec_ne_refused (i : Instr) (s : State) (r : Refusal) : exec i s ≠ .refused r := by
  intro h
  cases i with
  | ret => exact execRet_ne_refused h
  | call => exact execCall_ne_refused h
  | drw => exact execDrw_ne_refused h
  | ldVxK => exact execLdVxK_ne_refused h
  | orReg | xorReg | shr | subnReg | shl | jpV0 | addI => cases State.withExt_refused h
  | skp x =>
    obtain ⟨q, hq⟩ := State.withKey_refused (State.withExt_refused h)
    cases hq
  | sknp x =>
    simp only [exec, execSknp] at h
    obtain ⟨q, hq⟩ := State.withKey_refused h
    cases hq
  | ldB | ldVxMem => cases State.withRange_refused h
  | ldMemVx => cases State.withRange_refused (State.withExt_refused h)
  | _ => cases h

theorem finish_refused {q : Result} (h : finish q = .refused r) : q = .refused r := by
  cases q with
  | next t => cases h
  | fault f => cases h
  | refused r' => exact h

theorem cycle_ne_refused (s : State) (r : Refusal) : cycle s ≠ .refused r := by
  intro h
  simp only [cycle] at h
  split at h
  · cases h
  · split at h
    · cases h
    · exact exec_ne_refused _ _ r (finish_refused h)

end

/-- Settles O9: the primary key and then the secondary key of its family say which words are unsupported, and
the Cycle raises what Decode reports. -/
theorem unsupportedWords : Obligations.UnsupportedWords := by
  refine ⟨fun ext w => ?_, fun s w => cycle_of_decode_error⟩
  rw [decode_eq_unsupported_iff, decodeAlu_eq_error_iff, decodeKey_eq_error_iff, decodeMisc_eq_error_iff]

/-- Settles O50, by cases on the instruction; a Cycle adds the fetch and Decode, which can only fault. -/
theorem nothingRefused : Obligations.NothingRefused :=
  ⟨exec_ne_refused, fun s => cycle_ne_refused (tickerTurn s)⟩

/-- Settles O4: a step is the instruction on the state after the Ticker's turn, and `finish` adds the service
point to a next state only. -/
theorem stepRunsDecoded : Obligations.StepRunsDecoded := by
  intro s i hpc hi
  have hstep := step_of_decoded hpc hi
  exact ⟨_, rfl, fun t h => hstep.trans (congrArg finish h), fun f h => hstep.trans (congrArg finish h),
    fun r h => hstep.trans (congrArg finish h)⟩

end Machine

end Sys2Proof
end

section
/-! PROOFS. Control flow (41_control_flow.md): the words of a family that the primary key alone decides, SYS, the
call stack, the jumps and the skips; and that a program at its halt stays there (70_reset_and_hazards.md R336). -/

namespace Sys2Proof.Machine

section
variable {s t u : State} {w : Word} {nnn h : Addr} {ext : Bool}

/-! ### Decode of one family (30_encoding.md R97) -/

/-- A family without a secondary key: it is enough to decode the words with that family nibble. -/
theorem ReadsAs.of_family (f : Nibble) {g : Word → Instr}
    (hdec : ∀ w, fieldF w = f → decode ext w = .ok (g w)) : ReadsAs ext 0xF000#16 (wordNNN f 0#12) g :=
  fun w hw => hdec w ((primary_key w f).1 hw)

theorem decode_sys (hF : fieldF w = 0x0#4) (hE0 : fieldNN w ≠ 0xE0#8) (hEE : fieldNN w ≠ 0xEE#8) :
    decode ext w = .ok (.sys (fieldNNN w)) := by
  simp [decode, hF, decodeSys_of_ne hE0 hEE]

/-! ### The call stack (R131, R133) -/

theorem State.top_congr (hsp : u.sp = t.sp) (hstack : u.stack = t.stack) : u.top = t.top := by
  simp only [State.top, hsp, hstack]

theorem State.top_push (s : State) (a : Word) : (s.push a).top = a :=
  (s.getElem_push (s.sp + 1)).trans (if_pos rfl)

theorem exec_ret_of_ne_zero (hsp : s.sp ≠ 0) :
    exec .ret s = .next (s.setPc (s.top + 2#16)).pop :=
  if_neg hsp

theorem exec_ret_of_eq_zero (hsp : s.sp = 0) : exec .ret s = .fault (.stackUnderflow s.op s.pc) :=
  if_pos hsp

theorem exec_call_of_ne (hsp : s.sp ≠ 15) :
    exec (.call nnn) s = .next ((s.push s.pc).setPc (addrWord nnn)) :=
  if_neg hsp

theorem exec_call_of_eq (hsp : s.sp = 15) : exec (.call nnn) s = .fault (.stackOverflow s.op s.pc) :=
  if_pos hsp

/-- CALL answers a next state only where the stack has room. -/
theorem exec_call_next (hcall : exec (.call nnn) s = .next t) :
    s.sp ≠ 15 ∧ t = (s.push s.pc).setPc (addrWord nnn) := by
  by_cases hsp : s.sp = 15
  · rw [exec_call_of_eq hsp] at hcall
    cases hcall
  · rw [exec_call_of_ne hsp] at hcall
    exact ⟨hsp, (Host.Outcome.next.inj hcall).symm⟩

/-! ### The jumps (R132, R134) -/

/-- The sum is at most 0xFFF + 0xFF, so it does not wrap. -/
theorem toNat_addrWord_add_byteWord (nnn : Addr) (b : Byte) :
    (addrWord nnn + byteWord b).toNat = nnn.toNat + b.toNat := by
  rw [BitVec.toNat_add, toNat_addrWord, toNat_byteWord]
  omega

theorem decode_jump (ext : Bool) (nnn : Addr) : decode ext (wordNNN 0x1#4 nnn) = .ok (.jp nnn) :=
  decode_encode (i := .jp nnn) (Instr.wfIn_of_not_isExt rfl rfl)

/-- A Cycle that fetches a jump sets OP and pc, and then comes the service point. -/
theorem cycle_of_jump (hfetch : s.fetch = .ok (wordNNN 0x1#4 nnn)) :
    cycle s =
      .next ((s.beginCycle.setOp (wordNNN 0x1#4 nnn)).setPc (addrWord nnn)).service :=
  cycle_of_decoded s hfetch (decode_jump _ nnn)

/-! ### The skips (R139) -/

theorem State.next_skipIf {c : Bool} {p : Prop} [Decidable p] (hc : c = true ↔ p) :
    ∃ t, (.next (s.skipIf c) : Result) = .next t ∧
      t.pc = (if p then s.pc + 4#16 else s.pc + 2#16) ∧ SameBut {} s t :=
  ⟨_, rfl, by simp only [State.skipIf_pc, hc], (SameBut.refl _ s).skipIf c⟩

/-! ### The halt (70_reset_and_hazards.md R336) -/

/-- After a Cycle that completes, the service point has cleared TP (60_exceptions.md R281). -/
theorem cycle_tp (hcycle : cycle s = .next t) : t.tp = false := by
  obtain ⟨w, i, u, -, -, -, rfl⟩ := cycle_next s hcycle
  exact u.service_tp

theorem State.atLdDt_of_jump (hfetch : s.fetch = .ok (wordNNN 0x1#4 nnn)) : s.atLdDt = false := by
  simp only [State.atLdDt, hfetch, decode_jump]

/-- `u` is `t` but for what a Cycle at the halt may write: OP, the timers, the events and the model's own slot
(log entry 6). -/
def State.HaltFrame (t u : State) : Prop :=
  u = { t with op := u.op, dt := u.dt, st := u.st, events := u.events, slot := u.slot }

theorem State.HaltFrame.trans {v : State} (htu : t.HaltFrame u) (huv : u.HaltFrame v) : t.HaltFrame v := by
  unfold State.HaltFrame
  rw [huv, htu]

/-- What a Cycle at the halt `h` makes of `t`, where `served` says whether its service point finds TP set
(60_exceptions.md R281 to R283). -/
def State.ServedAtHalt (h : Addr) (served : Bool) (t u : State) : Prop :=
  u.dt.toNat = t.dt.toNat - (if served then 1 else 0) ∧
  u.st.toNat = t.st.toNat - (if served then 1 else 0) ∧
  u.events = (if served = true ∧ t.st.toNat = 1 then [.beep] else []) ∧
  u = { t with
    op := wordNNN 0x1#4 h
    tp := false
    dt := u.dt
    st := u.st
    events := u.events
    slot := u.slot }

theorem State.ServedAtHalt.haltFrame {b : Bool} (hserved : t.ServedAtHalt h b u) (htp : t.tp = false) :
    t.HaltFrame u := by
  obtain ⟨-, -, -, hu⟩ := hserved
  unfold State.HaltFrame
  rw [hu]
  simp only [htp]

/-- One more Cycle at the halt is the jump to itself and the service point. -/
theorem cycle_at_halt (hpc : s.pc = addrWord h) (hfetch : s.fetch = .ok (wordNNN 0x1#4 h)) :
    ∃ u, ReachesHalt h s u ∧ s.ServedAtHalt h s.tp u := by
  have hcycle := cycle_of_jump hfetch
  rw [← hpc] at hcycle
  have hone : s.st = 0x01#8 ↔ s.st.toNat = 1 := BitVec.toNat_inj.symm
  refine ⟨_, ⟨hcycle, ?_, ?_⟩, ?_, ?_, ?_, ?_⟩
  · rw [State.service_pc, State.setPc_pc, hpc]
  · exact (State.fetch_congr (by simp) (by simp) (by simp)).trans hfetch
  · cases htp : s.tp <;> simp [htp, toNat_decrement]
  · cases htp : s.tp <;> simp [htp, toNat_decrement]
  · rw [State.service_events]
    exact if_congr (and_congr_right' hone) rfl rfl
  · rw [State.service_eq]
    rfl

theorem ReachesHalt.tp_eq_false (hhalt : ReachesHalt h s t) : t.tp = false := cycle_tp hhalt.1

/-- The next Cycle, with or without a firing of the Ticker before it. -/
theorem ReachesHalt.next_cycle (hhalt : ReachesHalt h s t) (b : Bool) :
    ∃ u, ReachesHalt h (if b then t.tick else t) u ∧ t.ServedAtHalt h b u := by
  have htp := hhalt.tp_eq_false
  obtain ⟨-, hpc, hfetch⟩ := hhalt
  cases b with
  | true => exact cycle_at_halt (s := t.tick) hpc hfetch
  | false =>
    have hnext := cycle_at_halt hpc hfetch
    rwa [htp] at hnext

theorem ReachesHalt.runTicks_cons (hhalt : ReachesHalt h s t) {b : Bool} (bs : List Bool)
    (hnext : ReachesHalt h (if b then t.tick else t) u) : runTicks (b :: bs) t = runTicks bs u := by
  obtain ⟨-, -, hfetch⟩ := hhalt
  obtain ⟨hcycle, -, -⟩ := hnext
  simp [runTicks, State.atLdDt_of_jump hfetch, hcycle]

/-- A first firing, or none, and then those of the rest. -/
theorem sub_count_cons (n : Nat) (b : Bool) (bs : List Bool) :
    n - (if b then 1 else 0) - bs.count true = n - (b :: bs).count true := by
  rw [Nat.sub_sub, List.count_cons, beq_true, Nat.add_comm]

theorem ReachesHalt.runTicks_eq_some (hhalt : ReachesHalt h s t) (bs : List Bool) :
    ∃ u, runTicks bs t = some u ∧ u.pc = addrWord h ∧ u.dt.toNat = t.dt.toNat - bs.count true ∧
      u.st.toNat = t.st.toNat - bs.count true ∧ t.HaltFrame u := by
  induction bs generalizing s t with
  | nil =>
    obtain ⟨-, hpc, -⟩ := hhalt
    exact ⟨t, rfl, hpc, rfl, rfl, rfl⟩
  | cons b bs ih =>
    obtain ⟨u, hnext, hserved⟩ := hhalt.next_cycle b
    obtain ⟨v, hrun, hpc, hdt, hst, huv⟩ := ih hnext
    have htu := hserved.haltFrame hhalt.tp_eq_false
    obtain ⟨hdtu, hstu, -, -⟩ := hserved
    refine ⟨v, (hhalt.runTicks_cons bs hnext).trans hrun, hpc, ?_, ?_, htu.trans huv⟩
    · rw [hdt, hdtu, sub_count_cons]
    · rw [hst, hstu, sub_count_cons]

end

/-- Settles O15: the top of the stack that CALL leaves is its own address, one entry above the old top. -/
theorem callThenRet : Obligations.CallThenRet := by
  intro nnn s t u hcall hsp hstack
  obtain ⟨hroom, rfl⟩ := exec_call_next hcall
  have hsp' : u.sp = s.sp + 1 := hsp
  have htop : u.top = s.pc := (State.top_congr hsp hstack).trans (s.top_push s.pc)
  refine ⟨_, exec_ret_of_ne_zero (by omega), ?_, ?_⟩
  · rw [State.pop_pc, State.setPc_pc, htop]
  · rw [State.pop_sp, State.setPc_sp, hsp', add_sub_cancel_right]

/-- Settles O60: one Cycle at the halt leads back to it, and so does any number, by induction on the firings. -/
theorem haltStays : Obligations.HaltStays :=
  ⟨fun _ _ _ b hhalt => hhalt.next_cycle b, fun _ _ _ bs hhalt => hhalt.runTicks_eq_some bs⟩

/-- Settles O11: SYS raises in every state, and of a fetched word the faulting Cycle keeps OP. -/
theorem sysRaises : Obligations.SysRaises := by
  refine ⟨fun ext w hF hE0 hEE => decode_sys hF hE0 hEE, fun nnn s => rfl, fun s w hfetch hF hE0 hEE => ?_⟩
  refine ⟨cycle_of_decoded s hfetch (decode_sys hF hE0 hEE), ?_⟩
  rw [faulted_of_fetch_ok hfetch]
  rfl

/-- Settles O12: the two cases of SP. -/
theorem retReturns : Obligations.RetReturns := by
  obtain ⟨-, hword, -⟩ := ignoredBits
  refine ⟨hword, fun s hsp => ?_, fun s => exec_ret_of_eq_zero⟩
  have hret := exec_ret_of_ne_zero hsp
  have hlower : (s.sp - 1).val = s.sp.val - 1 := by omega
  exact ⟨_, hret, rfl, hlower, rfl, writersOfState .ret s _ hret⟩

/-- Settles O13: a jump writes pc alone, and its Cycle ends with the service point. -/
theorem jpJumps : Obligations.JpJumps := by
  refine ⟨fun ext => ReadsAs.of_family 0x1#4 fun w hF => by simp [decode, hF], fun nnn s => ?_,
    fun nnn s hfetch => ?_⟩
  · have hpc : (addrWord nnn).toNat = nnn.toNat := toNat_addrWord nnn
    exact ⟨_, rfl, hpc, fun hout => State.fetch_of_le _ (hpc ▸ hout), (SameBut.refl _ s).setPc _⟩
  · refine ⟨_, cycle_of_jump hfetch, ?_, fun htp => ⟨State.service_tp _, ?_, ?_⟩⟩
    · rw [State.service_pc, State.setPc_pc, toNat_addrWord]
    · simp [htp, toNat_decrement]
    · simp [htp, toNat_decrement]

/-- Settles O14: the two cases of SP; a push writes the one entry above the top. -/
theorem callPushes : Obligations.CallPushes := by
  refine ⟨fun ext => ReadsAs.of_family 0x2#4 fun w hF => by simp [decode, hF], fun nnn s hsp => ?_,
    fun nnn s => exec_call_of_eq⟩
  have hcall := exec_call_of_ne (nnn := nnn) hsp
  have hhigher : (s.sp + 1).val = s.sp.val + 1 := by omega
  exact ⟨_, hcall, hhigher, s.top_push s.pc, fun k hk => (s.getElem_push k).trans (if_neg hk),
    toNat_addrWord nnn, writersOfState (.call nnn) s _ hcall⟩

/-- Settles O16: the check of EXT_STD decides; the sum does not wrap. -/
theorem jpV0Jumps : Obligations.JpV0Jumps := by
  refine ⟨ReadsAs.of_family 0xB#4 fun w hF => by simp [decode, hF], fun w hw => ?_, fun nnn s hext => ?_,
    fun nnn s hext => s.withExt_false hext⟩
  · have hF : fieldF w = 0xB#4 := (primary_key w 0xB#4).1 hw
    simp [decode, hF]
  · have hpc := toNat_addrWord_add_byteWord nnn (s.getV 0x0#4)
    exact ⟨_, s.withExt_true hext, hpc, by rw [State.setPc_pc]; omega, State.fetch_of_le _,
      (SameBut.refl _ s).setPc _⟩

/-- Settles O17: both are the skip pattern, on whether the register equals the byte. -/
theorem skipOnByte : Obligations.SkipOnByte :=
  ⟨fun _ => ReadsAs.of_family 0x3#4 fun w hF => by simp [decode, hF],
    fun _ => ReadsAs.of_family 0x4#4 fun w hF => by simp [decode, hF],
    fun _ _ _ => State.next_skipIf beq_iff_eq, fun _ _ _ => State.next_skipIf bne_iff_ne⟩

/-- Settles O18: both are the skip pattern, on whether the registers are equal; bits 3:0 are no key. -/
theorem skipOnRegisters : Obligations.SkipOnRegisters :=
  ⟨fun _ => ReadsAs.of_family 0x5#4 fun w hF => by simp [decode, hF],
    fun _ => ReadsAs.of_family 0x9#4 fun w hF => by simp [decode, hF],
    fun _ _ _ => State.next_skipIf beq_iff_eq, fun _ _ _ => State.next_skipIf bne_iff_ne⟩

end Sys2Proof.Machine
end

section
/-! PROOFS. Registers and ALU (42_alu.md): the words of the family 0x8, whose secondary key is the low nibble;
the two ways in which an instruction of the chapter completes, with a result alone or with a result and then the
flag (R160); and what each flag is worth. -/

namespace Sys2Proof.Machine

section
variable {s : State} {q : Result} {x : Nibble} {r : Byte} {c ext : Bool}

/-! ### Decode of the family 0x8 (30_encoding.md R98, R101) -/

theorem decode_eq_decodeAlu {w : Word} (hF : fieldF w = 0x8#4) : decode ext w = decodeAlu ext w := by
  simp [decode, hF]

/-- It is enough to read the words with that low nibble by the secondary key. -/
theorem ReadsAs.of_alu (n : Nibble) {g : Word → Instr}
    (hdec : ∀ w, fieldN w = n → decodeAlu ext w = .ok (g w)) :
    ReadsAs ext 0xF00F#16 (word4 0x8#4 0#4 0#4 n) g := by
  intro w hw
  obtain ⟨hF, hN⟩ := (nibble_key w 0x8#4 n).1 hw
  rw [decode_eq_decodeAlu hF, hdec w hN]

/-- The words of R100 in the family are unsupported on a core without EXT_STD. -/
theorem UnsupportedAs.of_alu (n : Nibble) (hn : n ∈ [0x1#4, 0x3#4, 0x6#4, 0x7#4, 0xE#4]) :
    UnsupportedAs 0xF00F#16 (word4 0x8#4 0#4 0#4 n) := by
  intro w hw
  obtain ⟨hF, rfl⟩ := (nibble_key w 0x8#4 n).1 hw
  rw [decode_eq_decodeAlu hF]
  exact decodeAlu_eq_error_iff.2 (.inr ⟨rfl, hn⟩)

/-! ### A result without a flag -/

theorem State.next_result (hq : q = s.result x r) :
    ∃ t, q = .next t ∧ t.getV x = r ∧ t.pc = s.pc + 2#16 ∧ SameBut { v := fun k => k == x } s t := by
  have hx : (s.setV x r).advance.getV x = r := by
    rw [State.getV_advance, State.getV_setV, if_pos rfl]
  exact ⟨_, hq, hx, rfl, SameBut.of_result (beq_self_eq_true x) rfl⟩

theorem State.next_result_bits {f : Nat → Bool} (hbits : ∀ k, r.getLsbD k = f k) (hq : q = s.result x r) :
    ∃ t, q = .next t ∧ (∀ k, (t.getV x).getLsbD k = f k) ∧ t.pc = s.pc + 2#16 ∧
      SameBut { v := fun k => k == x } s t := by
  obtain ⟨t, ht, rfl, hpc, hframe⟩ := State.next_result hq
  exact ⟨t, ht, hbits, hpc, hframe⟩

/-! ### A result and then the flag (R160) -/

theorem State.next_flagged {flag res : Nat} (hflag : (flagByte c).toNat = flag) (hres : r.toNat = res)
    (hq : q = s.flagged x r c) :
    ∃ t, q = .next t ∧ (t.getV 0xF#4).toNat = flag ∧ (x ≠ 0xF#4 → (t.getV x).toNat = res) ∧
      t.pc = s.pc + 2#16 ∧ SameBut { v := fun k => k == x || k == 0xF#4 } s t := by
  have hregs (k : Nibble) : (s.setFlagged x r c).advance.getV k =
      if k = 0xF#4 then flagByte c else if k = x then r else s.getV k := s.getV_setFlagged x k r c
  refine ⟨_, hq, ?_, fun hx => ?_, rfl, SameBut.of_flagged (x := x) (by simp) (by simp [vf]) rfl⟩
  · rw [hregs, if_pos rfl, hflag]
  · rw [hregs, if_neg hx, if_pos rfl, hres]

/-! ### The flags (R167 to R171) and the differences -/

theorem toNat_flagByte_addCarry (a b : Byte) :
    (flagByte (addCarry a b)).toNat = if 256 ≤ a.toNat + b.toNat then 1 else 0 := by
  have hcarry : b.toNat > 255 - a.toNat ↔ 256 ≤ a.toNat + b.toNat := by omega
  simp only [toNat_flagByte, addCarry, hcarry, decide_eq_true_eq]

theorem toNat_flagByte_noBorrow (a b : Byte) :
    (flagByte (noBorrow a b)).toNat = if a.toNat < b.toNat then 0 else 1 := by
  by_cases hlt : a.toNat < b.toNat <;> simp [toNat_flagByte, noBorrow, hlt]

theorem toNat_flagByte_shrOut (a : Byte) : (flagByte (shrOut a)).toNat = a.toNat % 2 := by
  simp only [toNat_flagByte, shrOut, BitVec.getLsbD, Nat.testBit_zero, decide_eq_true_eq]
  split <;> omega

/-- The bit shifted out of the left is the most significant one. -/
theorem toNat_flagByte_shlOut (a : Byte) : (flagByte (shlOut a)).toNat = a.toNat / 128 := by
  have hmsb : shlOut a = decide (128 ≤ a.toNat) := BitVec.msb_eq_decide a
  simp only [toNat_flagByte, hmsb, decide_eq_true_eq]
  split <;> omega

theorem toNat_byte_sub (a b : Byte) : (a - b).toNat = (a.toNat + 256 - b.toNat) % 256 := by
  rw [BitVec.toNat_sub]
  omega

end

/-- Settles O21: the carry is the sum's ninth bit, and it is written last. -/
theorem addCarries : Obligations.AddCarries :=
  ⟨fun _ => ReadsAs.of_alu 0x4#4 fun w hN => by simp [decodeAlu, hN],
    fun _ _ _ => State.next_flagged (toNat_flagByte_addCarry _ _) (BitVec.toNat_add _ _) rfl⟩

/-- Settles O22: VF is NOT borrow, and it is written last. -/
theorem subBorrows : Obligations.SubBorrows :=
  ⟨fun _ => ReadsAs.of_alu 0x5#4 fun w hN => by simp [decodeAlu, hN],
    fun _ _ _ => State.next_flagged (toNat_flagByte_noBorrow _ _) (toNat_byte_sub _ _) rfl⟩

/-- Settles O23: past the check of EXT_STD, the subtraction with its operands exchanged. -/
theorem subnBorrows : Obligations.SubnBorrows :=
  ⟨ReadsAs.of_alu 0x7#4 fun w hN => by simp [decodeAlu, hN],
    UnsupportedAs.of_alu 0x7#4 (by decide),
    fun _ _ s hext =>
      State.next_flagged (toNat_flagByte_noBorrow _ _) (toNat_byte_sub _ _) (s.withExt_true hext),
    fun _ _ s hext => s.withExt_false hext⟩

/-- Settles O24: a shift right halves, a shift left doubles, and VF is the bit that is lost. -/
theorem shiftsByOne : Obligations.ShiftsByOne := by
  have hhalf (a : Byte) : (a >>> 1).toNat = a.toNat / 2 := BitVec.toNat_ushiftRight a 1
  have hdouble (a : Byte) : (a <<< 1).toNat = a.toNat * 2 % 256 := by
    rw [BitVec.toNat_shiftLeft, Nat.shiftLeft_eq]
  refine ⟨ReadsAs.of_alu 0x6#4 fun w hN => by simp [decodeAlu, hN],
    ReadsAs.of_alu 0xE#4 fun w hN => by simp [decodeAlu, hN],
    UnsupportedAs.of_alu 0x6#4 (by decide), UnsupportedAs.of_alu 0xE#4 (by decide),
    fun x s hext => ?_, fun x s hext => ?_, fun _ s hext => ⟨s.withExt_false hext, s.withExt_false hext⟩⟩
  · exact State.next_flagged (toNat_flagByte_shrOut _) (hhalf _) (s.withExt_true hext)
  · exact State.next_flagged (toNat_flagByte_shlOut _) (hdouble _) (s.withExt_true hext)

/-- Settles O19: both give a result alone, at every X. -/
theorem loadAndAddByte : Obligations.LoadAndAddByte := by
  refine ⟨fun _ => ReadsAs.of_family 0x6#4 fun w hF => by simp [decode, hF],
    fun _ => ReadsAs.of_family 0x7#4 fun w hF => by simp [decode, hF],
    fun _ _ _ => State.next_result rfl, fun x nn s => ?_⟩
  obtain ⟨t, ht, hx, hpc, hframe⟩ := State.next_result (q := exec (.addImm x nn) s) rfl
  exact ⟨t, ht, by rw [hx, BitVec.toNat_add], hpc, hframe⟩

/-- Settles O20: each gives a result alone, OR and XOR past the check of EXT_STD. -/
theorem logicOfRegisters : Obligations.LogicOfRegisters :=
  ⟨fun _ => ReadsAs.of_alu 0x0#4 fun w hN => by simp [decodeAlu, hN],
    fun _ => ReadsAs.of_alu 0x2#4 fun w hN => by simp [decodeAlu, hN],
    ReadsAs.of_alu 0x1#4 fun w hN => by simp [decodeAlu, hN],
    ReadsAs.of_alu 0x3#4 fun w hN => by simp [decodeAlu, hN],
    UnsupportedAs.of_alu 0x1#4 (by decide), UnsupportedAs.of_alu 0x3#4 (by decide),
    fun _ _ _ => State.next_result rfl,
    fun _ _ _ => State.next_result_bits (fun _ => BitVec.getLsbD_and) rfl,
    fun _ _ s hext => State.next_result_bits (fun _ => BitVec.getLsbD_or) (s.withExt_true hext),
    fun _ _ s hext => State.next_result_bits (fun _ => BitVec.getLsbD_xor) (s.withExt_true hext),
    fun _ _ s hext => ⟨s.withExt_false hext, s.withExt_false hext⟩⟩

/-- Settles O25: of the random byte nothing is used but that it is a byte. -/
theorem randomMasked : Obligations.RandomMasked :=
  ⟨fun _ => ReadsAs.of_family 0xC#4 fun w hF => by simp [decode, hF],
    fun _ _ _ => State.next_result_bits (fun _ => BitVec.getLsbD_and) rfl⟩

end Sys2Proof.Machine
end

section
/-! PROOFS. The index register and memory (43_index_memory.md): the words of the family 0xF, whose secondary key
is the low byte; the three writers of I; and the accesses through I, whose range is checked as a whole (R64). -/

namespace Sys2Proof.Machine

section
variable {s : State} {q : Result} {x : Nibble} {ext : Bool}

/-! ### Decode of the family 0xF (30_encoding.md R98, R101) -/

theorem decode_eq_decodeMisc {w : Word} (hF : fieldF w = 0xF#4) : decode ext w = decodeMisc ext w := by
  simp [decode, hF]

/-- It is enough to read the words with that low byte by the secondary key. -/
theorem ReadsAs.of_misc (nn : Byte) {g : Word → Instr}
    (hdec : ∀ w, fieldNN w = nn → decodeMisc ext w = .ok (g w)) :
    ReadsAs ext 0xF0FF#16 (wordXNN 0xF#4 0#4 nn) g := by
  intro w hw
  obtain ⟨hF, hNN⟩ := (byte_key w 0xF#4 nn).1 hw
  rw [decode_eq_decodeMisc hF, hdec w hNN]

/-- On a core without EXT_STD, the words whose low byte is not of the six rows of R99 are unsupported. -/
theorem UnsupportedAs.of_misc (nn : Byte) (hnn : nn ∉ [0x07#8, 0x15#8, 0x18#8, 0x29#8, 0x33#8, 0x65#8]) :
    UnsupportedAs 0xF0FF#16 (wordXNN 0xF#4 0#4 nn) := by
  intro w hw
  obtain ⟨hF, rfl⟩ := (byte_key w 0xF#4 nn).1 hw
  rw [decode_eq_decodeMisc hF]
  exact decodeMisc_eq_error_iff.2 ⟨hnn, .inl rfl⟩

/-! ### The writers of I (R200, R201, R202) -/

theorem State.next_setI {a : Word} {n : Nat} (ha : a.toNat = n) (hq : q = .next (s.setI a).advance) :
    ∃ t, q = .next t ∧ t.i.toNat = n ∧ t.pc = s.pc + 2#16 ∧ SameBut { i := true } s t :=
  ⟨_, hq, ha, rfl, ((SameBut.refl _ s).setI rfl a).advance⟩

/-- Five times a byte is at most 1275, so it does not wrap. -/
theorem toNat_fontAddress (b : Byte) : (fontAddress b).toNat = b.toNat * 5 := by
  simp only [fontAddress, BitVec.toNat_mul, toNat_byteWord, BitVec.reduceToNat]
  omega

theorem toNat_add_byteWord (a : Word) (b : Byte) : (a + byteWord b).toNat = (a.toNat + b.toNat) % 65536 := by
  rw [BitVec.toNat_add, toNat_byteWord]

/-! ### The accesses through I (R203, R204, R205) -/

/-- An access whose range lies in RAM completes, and pc advances. -/
theorem State.withRange_advance {len : Nat} {u : State} (hin : s.i.toNat + len ≤ 0x1000) (hpc : u.pc = s.pc) :
    ∃ t, s.withRange len (.next u.advance) = .next t ∧ t.pc = s.pc + 2#16 :=
  ⟨_, s.withRange_of_le (.inr hin), by rw [State.advance_pc, hpc]⟩

/-- LD [I], Vx leaves V[k] at I + k. -/
theorem execLdMemVx_readByte_add {t : State} (h : exec (.ldMemVx x) s = .next t) {k : Nibble}
    (hk : k.toNat ≤ x.toNat) : t.readByte (s.base + k.toNat) = s.getV k := by
  have hval := execLdMemVx_readByte h (s.base + k.toNat)
  rw [if_pos (by omega), Nat.add_sub_cancel_left, BitVec.ofNat_toNat, BitVec.setWidth_eq] at hval
  exact BitVec.eq_of_toNat_eq hval

/-- LD Vx, [I] leaves the byte at I + k in V[k]. -/
theorem execLdVxMem_getV {t : State} (h : exec (.ldVxMem x) s = .next t) {k : Nibble}
    (hk : k.toNat ≤ x.toNat) : t.getV k = s.readByte (s.base + k.toNat) := by
  obtain ⟨-, h⟩ := s.withRange_next h
  obtain rfl := Host.Outcome.next.inj h
  rw [State.getV_advance, State.getV_loadBlock, if_pos hk]

end

/-- Settles O27: the digits are known at every address once the instruction completes, and the range of three
bytes decides whether it does. -/
theorem bcdStored : Obligations.BcdStored := by
  refine ⟨fun ext => ReadsAs.of_misc 0x33#8 fun w hNN => by simp [decodeMisc, hNN], fun x s hin => ?_,
    fun x s hout => ?_⟩
  · obtain ⟨t, ht, hpc⟩ := State.withRange_advance (s := s) (len := 3)
      (u := s.writeBytes s.base (bcdDigits (s.getV x))) (by omega) (State.writeBytes_pc ..)
    have hbyte := execLdB_readByte (x := x) ht
    refine ⟨t, ht, ?_, ?_, ?_, hpc, writersOfState (.ldB x) s t ht⟩
    · simpa [State.base] using hbyte s.base
    · simpa [State.base] using hbyte (s.base + 1)
    · simpa [State.base] using hbyte (s.base + 2)
  · exact exec_eq_memRange (i := .ldB x) rfl (by decide) nofun (show 0x1000 < s.i.toNat + 3 by omega)

/-- Settles O28: past the check of EXT_STD, the range of X + 1 bytes decides. -/
theorem registersStored : Obligations.RegistersStored := by
  refine ⟨ReadsAs.of_misc 0x55#8 fun w hNN => by simp [decodeMisc, hNN],
    UnsupportedAs.of_misc 0x55#8 (by decide), fun x s hext hin => ?_, fun x s hext hout => ?_,
    fun x s hext => s.withExt_false hext⟩
  · obtain ⟨t, ht, hpc⟩ := State.withRange_advance (s := s) (len := x.toNat + 1)
      (u := s.writeBytes s.base (s.firstRegs (x.toNat + 1))) (by omega)
      (State.writeBytes_pc ..)
    have hexec : exec (.ldMemVx x) s = .next t := (s.withExt_true hext).trans ht
    exact ⟨t, hexec, fun k hk => execLdMemVx_readByte_add hexec hk, hpc,
      writersOfState (.ldMemVx x) s t hexec⟩
  · exact exec_eq_memRange (i := .ldMemVx x) rfl (Nat.succ_ne_zero _) (fun _ => hext)
      (show 0x1000 < s.i.toNat + (x.toNat + 1) by omega)

/-- Settles O29: the range of X + 1 bytes decides. -/
theorem registersLoaded : Obligations.RegistersLoaded := by
  refine ⟨fun ext => ReadsAs.of_misc 0x65#8 fun w hNN => by simp [decodeMisc, hNN], fun x s hin => ?_,
    fun x s hout => ?_⟩
  · obtain ⟨t, ht, hpc⟩ := State.withRange_advance (s := s) (len := x.toNat + 1) (u := s.loadBlock x)
      (by omega) rfl
    exact ⟨t, ht, fun k hk => execLdVxMem_getV ht hk, hpc, writersOfState (.ldVxMem x) s t ht⟩
  · exact exec_eq_memRange (i := .ldVxMem x) rfl (Nat.succ_ne_zero _) nofun
      (show 0x1000 < s.i.toNat + (x.toNat + 1) by omega)

/-- Settles O26: each writes I and pc alone; ADD I, Vx past the check of EXT_STD. -/
theorem indexWrites : Obligations.IndexWrites :=
  ⟨fun _ => ReadsAs.of_family 0xA#4 fun w hF => by simp [decode, hF],
    fun _ => ReadsAs.of_misc 0x29#8 fun w hNN => by simp [decodeMisc, hNN],
    ReadsAs.of_misc 0x1E#8 fun w hNN => by simp [decodeMisc, hNN],
    UnsupportedAs.of_misc 0x1E#8 (by decide),
    fun nnn _ => State.next_setI (toNat_addrWord nnn) rfl,
    fun _ _ => State.next_setI (toNat_fontAddress _) rfl,
    fun _ s hext => State.next_setI (toNat_add_byteWord _ _) (s.withExt_true hext),
    fun _ s hext => s.withExt_false hext⟩

end Sys2Proof.Machine
end

section
/-! PROOFS. The display (44_display.md): distinct bits of a sprite fall on distinct cells (R235), its cells stand
in row-major order (R232), and so what DXYN answers and what it leaves in every cell, in VF and in the events. -/

namespace Sys2Proof.Machine

section
variable {s t : State} {p : DrawPolicy} {x y n : Nibble}

/-! ### The cells of a sprite (R231, R232, R235) -/

theorem pixAddr_wrap_lt (a b : Nat) : pixAddr .wrap a b < 2048 := by
  simp only [pixAddr]
  omega

/-- A sprite is 8 columns wide and, within 32 rows, does not come round to its own first row. -/
theorem pixAddr_inj {a b r r' c c' : Nat} (hr : r < 32) (hr' : r' < 32) (hc : c < 8) (hc' : c' < 8)
    (h : pixAddr p (a + c) (b + r) = pixAddr p (a + c') (b + r')) : r = r' ∧ c = c' := by
  cases p <;> simp only [pixAddr] at h <;> omega

theorem rowCells_add (a b : Nat) (row : Byte) (c m k : Nat) :
    rowCells p a b row c (m + k) = rowCells p a b row c m ++ rowCells p a b row (c + m) k := by
  induction m generalizing c with
  | zero => simp [rowCells]
  | succ m ih =>
    rw [Nat.add_right_comm, rowCells, rowCells, ih, Nat.add_assoc c, Nat.add_comm 1 m]
    split <;> rfl

/-- A row's list at a set bit: before it, the cells of the bits to its left. -/
theorem rowCells_split {a b c : Nat} {row : Byte} (hc : c < 8) (hset : row.getLsbD (7 - c) = true) :
    ∃ after, rowCells p a b row 0 8 = rowCells p a b row 0 c ++ pixAddr p (a + c) b :: after := by
  obtain ⟨k, hk⟩ := Nat.exists_eq_add_of_lt hc
  refine ⟨rowCells p a b row (c + 1) k, ?_⟩
  rw [hk, Nat.add_assoc, rowCells_add, Nat.zero_add, rowCells, if_pos hset]

theorem spriteCells_append (a b : Nat) (rows rows' : List Byte) :
    spriteCells p a b (rows ++ rows') =
      spriteCells p a b rows ++ spriteCells p a (b + rows.length) rows' := by
  induction rows generalizing b with
  | nil => rfl
  | cons row rows ih =>
    rw [List.cons_append, spriteCells, spriteCells, ih, List.append_assoc, List.length_cons,
      Nat.add_assoc b, Nat.add_comm 1]

theorem nodup_rowCells (a b : Nat) (row : Byte) {c m : Nat} (h : c + m ≤ 8) :
    (rowCells p a b row c m).Nodup := by
  induction m generalizing c with
  | zero => exact List.nodup_nil
  | succ m ih =>
    have htail : (rowCells p a b row (c + 1) m).Nodup := ih (by omega)
    rw [rowCells]
    split
    · refine List.nodup_cons.2 ⟨fun hmem => ?_, htail⟩
      obtain ⟨k, hlo, hhi, -, heq⟩ := (mem_rowCells (c + 1) m).1 hmem
      have hkc : k = c :=
        (pixAddr_inj (r := 0) (r' := 0) (by omega) (by omega) (by omega) (by omega) heq).2
      omega
    · exact htail

theorem nodup_spriteCells (a b : Nat) {rows : List Byte} (h : rows.length ≤ 32) :
    (spriteCells p a b rows).Nodup := by
  induction rows generalizing b with
  | nil => exact List.nodup_nil
  | cons row rows ih =>
    rw [List.length_cons] at h
    refine List.nodup_append'.2 ⟨nodup_rowCells a b row (Nat.le_refl 8), ih (b + 1) (by omega), ?_⟩
    intro j hrow hrest
    obtain ⟨c, -, hc, -, hj⟩ := (mem_rowCells 0 8).1 hrow
    obtain ⟨r, c', row', hr, hc', -, hj'⟩ := mem_spriteCells.1 hrest
    have hlen : r < rows.length := (List.getElem?_eq_some_iff.1 hr).1
    have heq : pixAddr p (a + c) (b + 0) = pixAddr p (a + c') (b + (r + 1)) := by
      rw [Nat.add_zero, hj, ← hj', Nat.add_assoc b, Nat.add_comm 1]
    obtain ⟨hzero, -⟩ := pixAddr_inj (by omega) (by omega) (by omega) hc' heq
    omega

/-! ### The cells that DXYN flips (R233) -/

theorem State.readBytes_add (s : State) (a m k : Nat) :
    s.readBytes a (m + k) = s.readBytes a m ++ s.readBytes (a + m) k := by
  induction m generalizing a with
  | zero => simp [State.readBytes]
  | succ m ih =>
    rw [Nat.add_right_comm, State.readBytes, State.readBytes, ih, Nat.add_assoc a, Nat.add_comm 1 m]
    rfl

theorem State.mem_drwCells_iff {j : Nat} : j ∈ s.drwCells x y n ↔ s.Covers x y n j := by
  refine ⟨State.covers_of_mem_drwCells, ?_⟩
  rintro ⟨r, c, hr, hc, hset, hj⟩
  exact mem_spriteCells.2 ⟨r, c, _, (s.getElem?_readBytes _ _ _).trans (if_pos hr), hc, hset, hj⟩

theorem State.nodup_drwCells (s : State) (x y n : Nibble) : (s.drwCells x y n).Nodup :=
  nodup_spriteCells _ _ (by rw [State.length_readBytes]; omega)

/-- The list at a set bit: before it stand cells of set bits that come before it in row-major order. -/
theorem State.drwCells_split {r c : Nat} (hr : r < n.toNat) (hc : c < 8) (hset : s.spriteBit r c = true) :
    ∃ before after, s.drwCells x y n = before ++ s.pixelAt x y r c :: after ∧
      ∀ j ∈ before, ∃ r' c', c' < 8 ∧ (r' < r ∨ (r' = r ∧ c' < c)) ∧ s.spriteBit r' c' = true ∧
        s.pixelAt x y r' c' = j := by
  obtain ⟨k, hk⟩ := Nat.exists_eq_add_of_lt hr
  obtain ⟨after, hrow⟩ := rowCells_split (p := s.cfg.drawPolicy) (a := (s.getV x).toNat)
    (b := (s.getV y).toNat + r) hc hset
  refine ⟨s.drwCells x y (BitVec.ofNat 4 r) ++
    rowCells s.cfg.drawPolicy (s.getV x).toNat ((s.getV y).toNat + r) (s.readByte (s.base + r)) 0 c,
    after ++ spriteCells s.cfg.drawPolicy (s.getV x).toNat ((s.getV y).toNat + r + 1)
      (s.readBytes (s.base + r + 1) k), ?_, fun j hj => ?_⟩
  · have hr16 : (BitVec.ofNat 4 r).toNat = r := Nat.mod_eq_of_lt (by omega)
    simp only [State.drwCells, State.pixelAt, hk, hr16, Nat.add_assoc r, s.readBytes_add _ r,
      spriteCells_append, State.length_readBytes, State.readBytes, spriteCells, hrow, List.append_assoc,
      List.cons_append]
  · obtain hj | hj := List.mem_append.1 hj
    · obtain ⟨r', c', hr', hc', hset', hpix⟩ := State.mem_drwCells_iff.1 hj
      have hle : (BitVec.ofNat 4 r).toNat ≤ r := Nat.mod_le _ _
      exact ⟨r', c', hc', .inl (by omega), hset', hpix⟩
    · obtain ⟨c', -, hc', hset', hpix⟩ := (mem_rowCells 0 c).1 hj
      exact ⟨r, c', by omega, .inr ⟨rfl, by omega⟩, hset', hpix⟩

/-- A sprite is the same where the coordinates, I, memory and the policy are. -/
theorem State.covers_congr (hx : t.getV x = s.getV x) (hy : t.getV y = s.getV y) (hi : t.i = s.i)
    (hbytes : ∀ a, t.readByte a = s.readByte a) (hcfg : t.cfg = s.cfg) (j : Nat) :
    t.Covers x y n j ↔ s.Covers x y n j := by
  simp only [State.Covers, State.spriteBit, State.pixelAt, State.base, hx, hy, hi, hbytes, hcfg]

theorem State.covers_zero_rows (s : State) (x y : Nibble) : s.Covers x y 0x0#4 = fun _ => False := by
  funext j
  exact eq_false fun ⟨_, _, hr, _⟩ => Nat.not_lt_zero _ hr

/-! ### Whether DXYN completes (R231 to R233, R236) -/

theorem State.lt_of_covers_of_wrap (hp : s.cfg.drawPolicy = .wrap) {j : Nat} (h : s.Covers x y n j) :
    j < 2048 := by
  obtain ⟨r, c, -, -, -, rfl⟩ := h
  rw [State.pixelAt, hp]
  exact pixAddr_wrap_lt _ _

/-- The check of DRAW_RANGE passes just where every covered cell is of the framebuffer, which WRAP sees to. -/
theorem State.drawOutside_eq_none_iff :
    drawOutside s.cfg.drawPolicy (s.drwCells x y n) = none ↔ ∀ j, s.Covers x y n j → j < 2048 := by
  cases hp : s.cfg.drawPolicy with
  | wrap => exact iff_of_true rfl fun _ => State.lt_of_covers_of_wrap hp
  | linear => simp [drawOutside, State.mem_drwCells_iff]

/-- Rows that lie in RAM, or none at all, pass the check of MEM_RANGE. -/
theorem State.rows_in_range (hrows : n ≠ 0x0#4 → s.i.toNat + n.toNat - 1 ≤ 0xFFF) :
    n.toNat = 0 ∨ s.base + n.toNat ≤ memSize := by
  by_cases hn : n = 0x0#4
  · exact .inl (congrArg BitVec.toNat hn)
  · have hin := hrows hn
    exact .inr (show s.i.toNat + n.toNat ≤ 0x1000 by omega)

theorem exec_drw_of_inside (hrange : n.toNat = 0 ∨ s.base + n.toNat ≤ memSize)
    (hin : ∀ j, s.Covers x y n j → j < 2048) :
    exec (.drw x y n) s = .next (s.drawCells (s.drwCells x y n)).advance := by
  rw [exec, execDrw, s.withRange_of_le hrange, State.drawOutside_eq_none_iff.2 hin]

theorem exec_drw_of_outside {j : Nat} (hrange : n.toNat = 0 ∨ s.base + n.toNat ≤ memSize)
    (hout : drawOutside s.cfg.drawPolicy (s.drwCells x y n) = some j) :
    exec (.drw x y n) s = .fault (.drawRange s.op j) := by
  rw [exec, execDrw, s.withRange_of_le hrange, hout]
  rfl

/-- DRAW_RANGE is raised by DXYN alone, and only where the policy looks for an index (R232). -/
theorem drawPolicy_of_exec_drawRange {i : Instr} {w : Word} {j : Nat}
    (h : exec i s = .fault (.drawRange w j)) : s.cfg.drawPolicy = .linear := by
  cases i with
  | drw x y n =>
    obtain ⟨-, h⟩ | ⟨-, -, hf⟩ := s.withRange_fault h
    · cases hp : s.cfg.drawPolicy with
      | wrap => simp [hp, drawOutside] at h
      | linear => rfl
    · cases hf
  | ret =>
    simp only [exec, execRet] at h
    split at h <;> cases h
  | call nnn =>
    simp only [exec, execCall] at h
    split at h <;> cases h
  | orReg | xorReg | shr | subnReg | shl | jpV0 | addI =>
    obtain ⟨hf, -⟩ | ⟨-, h⟩ := s.withExt_fault h
    · cases hf
    · cases h
  | ldVxK x =>
    obtain ⟨hf, -⟩ | ⟨-, h⟩ := s.withExt_fault h
    · cases hf
    · split at h <;> cases h
  | skp x =>
    obtain ⟨hf, -⟩ | ⟨-, h⟩ := s.withExt_fault h
    · cases hf
    · obtain ⟨q, h⟩ | ⟨hf, -⟩ := s.withKey_fault h
      · cases h
      · cases hf
  | sknp x =>
    simp only [exec, execSknp] at h
    obtain ⟨q, h⟩ | ⟨hf, -⟩ := s.withKey_fault h
    · cases h
    · cases hf
  | ldB | ldVxMem =>
    obtain ⟨-, h⟩ | ⟨-, -, hf⟩ := s.withRange_fault h
    · cases h
    · cases hf
  | ldMemVx x =>
    obtain ⟨hf, -⟩ | ⟨-, h⟩ := s.withExt_fault h
    · cases hf
    · obtain ⟨-, h⟩ | ⟨-, -, hf⟩ := s.withRange_fault h
      · cases h
      · cases hf
  | _ => cases h

/-! ### What DXYN leaves (R233) -/

theorem lt_of_mem_drwCells (h : exec (.drw x y n) s = .next t) : ∀ j ∈ s.drwCells x y n, j < 2048 := by
  obtain ⟨-, hnone, -⟩ := execDrw_next h
  exact fun j hj => State.drawOutside_eq_none_iff.1 hnone j (State.covers_of_mem_drwCells hj)

theorem cell_of_exec_drw (h : exec (.drw x y n) s = .next t) (j : Nat) :
    (s.Covers x y n j → t.gfx.cell j = !s.gfx.cell j) ∧
      (¬ s.Covers x y n j → t.gfx.cell j = s.gfx.cell j) := by
  have hin := lt_of_mem_drwCells h
  obtain ⟨-, -, rfl⟩ := execDrw_next h
  rw [State.advance_gfx, State.drawCells_gfx, blit_cell (s.nodup_drwCells x y n) hin,
    ← State.mem_drwCells_iff]
  exact ⟨fun hj => by simp [hj], fun hj => by simp [hj]⟩

theorem vf_of_exec_drw (h : exec (.drw x y n) s = .next t) :
    ((∃ j, s.Covers x y n j ∧ s.gfx.cell j = true) → t.getV vf = 0x01#8) ∧
      ((∀ j, s.Covers x y n j → s.gfx.cell j = false) → t.getV vf = 0x00#8) := by
  have hin := lt_of_mem_drwCells h
  obtain ⟨-, -, rfl⟩ := execDrw_next h
  have hhit := blit_hit (s.nodup_drwCells x y n) hin s.gfx false
  simp only [Bool.false_eq_true, false_or, State.mem_drwCells_iff] at hhit
  have hvf : (s.drawCells (s.drwCells x y n)).advance.getV vf =
      flagByte (blit (s.drwCells x y n) (s.gfx, false)).2 := by
    simp [State.drawCells]
  rw [hvf]
  refine ⟨fun hlit => by rw [hhit.2 hlit]; rfl, fun hdark => ?_⟩
  have hmiss : (blit (s.drwCells x y n) (s.gfx, false)).2 = false := by
    refine Bool.eq_false_iff.2 fun htrue => ?_
    obtain ⟨j, hj, hlit⟩ := hhit.1 htrue
    simp [hdark j hj] at hlit
  rw [hmiss]
  rfl

theorem events_of_exec_drw (h : exec (.drw x y n) s = .next t) : t.events = s.events ++ [.draw] := by
  obtain ⟨-, -, rfl⟩ := execDrw_next h
  rfl

theorem pc_of_exec_drw (h : exec (.drw x y n) s = .next t) : t.pc = s.pc + 2#16 := by
  obtain ⟨-, -, rfl⟩ := execDrw_next h
  rfl

/-- The next DXYN of the same operands covers the same cells, where neither coordinate is VF. -/
theorem covers_of_exec_drw (h : exec (.drw x y n) s = .next t) (hx : x ≠ vf) (hy : y ≠ vf) (j : Nat) :
    t.Covers x y n j ↔ s.Covers x y n j := by
  have hframe := writersOfState (.drw x y n) s t h
  exact State.covers_congr (hframe.v x (beq_false_of_ne hx)) (hframe.v y (beq_false_of_ne hy))
    (hframe.i rfl) (fun a => hframe.mem a rfl) hframe.cfg j

end

/-- Settles O33: where DXYN completes, its cells are distinct and of the framebuffer, so each flips once and VF
sees what was lit before; the two checks, in their order, say where it faults. -/
theorem drwDraws : Obligations.DrwDraws := by
  refine ⟨fun ext => ReadsAs.of_family 0xD#4 fun w hF => by simp [decode, hF],
    fun x y n s hrows hlinear => ?_, fun x y n s hn hout => ?_, fun x y n s hrows hlinear hout => ?_⟩
  · have hin : ∀ j, s.Covers x y n j → j < 2048 := by
      cases hp : s.cfg.drawPolicy with
      | wrap => exact fun _ => State.lt_of_covers_of_wrap hp
      | linear => exact hlinear hp
    have hexec := exec_drw_of_inside (State.rows_in_range hrows) hin
    obtain ⟨hlit, hdark⟩ := vf_of_exec_drw hexec
    exact ⟨_, hexec, fun j _ => cell_of_exec_drw hexec j, hlit, hdark, events_of_exec_drw hexec,
      pc_of_exec_drw hexec, writersOfState (.drw x y n) s _ hexec⟩
  · have hpos : n.toNat ≠ 0 := fun h => hn (BitVec.eq_of_toNat_eq h)
    exact exec_eq_memRange (i := .drw x y n) rfl hpos nofun (show 0x1000 < s.i.toNat + n.toNat by omega)
  · have hsome : drawOutside s.cfg.drawPolicy (s.drwCells x y n) ≠ none := by
      obtain ⟨j, hj, hge⟩ := hout
      exact fun hnone => absurd (State.drawOutside_eq_none_iff.1 hnone j hj) (by omega)
    obtain ⟨j, hj⟩ := Option.ne_none_iff_exists'.1 hsome
    exact ⟨j, exec_drw_of_outside (State.rows_in_range hrows) hj⟩

/-- Settles O34: the cells are looked through in row-major order, and a faulting Cycle writes OP alone. -/
theorem linearRangeFault : Obligations.LinearRangeFault := by
  refine ⟨fun x y n s r c hp hrows hr hc hset hge hfirst => ?_, fun s w j _ => ?_, fun i s w j hp h => ?_⟩
  · obtain ⟨before, after, hcells, hbefore⟩ := State.drwCells_split (x := x) (y := y) hr hc hset
    refine exec_drw_of_outside (State.rows_in_range hrows) ?_
    rw [hp, hcells]
    refine List.find?_eq_some_iff_append.2 ⟨decide_eq_true hge, before, after, rfl, fun j hj => ?_⟩
    obtain ⟨r', c', hc', hlt, hset', rfl⟩ := hbefore j hj
    simpa using hfirst r' c' hc' hlt hset'
  · rw [faulted_eq]
    exact ⟨rfl, rfl, rfl⟩
  · have hlinear := drawPolicy_of_exec_drawRange h
    rw [hp] at hlinear
    cases hlinear

/-- Settles O37: the frame of every other instruction keeps the events. -/
theorem onlyDrwEmitsDraw : Obligations.OnlyDrwEmitsDraw := by
  intro i s t h
  cases i with
  | drw x y n => exact events_of_exec_drw h
  | _ => exact ((writersOfState _ s t h).events rfl).trans (List.append_nil _).symm

/-- Settles O38: both draws cover the same cells, and a cell flipped twice is as it was. -/
theorem drawTwiceRestores : Obligations.DrawTwiceRestores := by
  intro x y n s t u hx hy hst htu j _
  have hsame := covers_of_exec_drw hst hx hy j
  obtain ⟨hflip, hkeep⟩ := cell_of_exec_drw hst j
  obtain ⟨hflip', hkeep'⟩ := cell_of_exec_drw htu j
  by_cases hj : s.Covers x y n j
  · rw [hflip' (hsame.2 hj), hflip hj, Bool.not_not]
  · rw [hkeep' (mt hsame.1 hj), hkeep hj]

/-- Settles O32: bits 11:8 are no key; every cell is in the frame, and events and registers are not. -/
theorem clsClears : Obligations.ClsClears := by
  refine ⟨fun ext w hw => ?_, fun s => ?_⟩
  · obtain ⟨hF, hNN⟩ := (byte_key w 0x0#4 0xE0#8).1 hw
    simp [decode, decodeSys, hF, hNN]
  · exact ⟨_, rfl, fun j _ => Frame.cell_clear j, rfl, writersOfState .cls s _ rfl⟩

/-- Settles O35: without rows no byte is checked and no cell is covered. -/
theorem drwNoRows : Obligations.DrwNoRows := by
  intro x y s
  have hnone : ∀ j, ¬ s.Covers x y 0x0#4 j := fun j => by simp [State.covers_zero_rows]
  have hexec := exec_drw_of_inside (.inl rfl) fun j hj => absurd hj (hnone j)
  obtain ⟨-, hdark⟩ := vf_of_exec_drw hexec
  have hframe := writersOfState (.drw x y 0x0#4) s _ hexec
  rw [mayWrite, State.covers_zero_rows] at hframe
  exact ⟨_, hexec, hdark fun j hj => absurd hj (hnone j), events_of_exec_drw hexec, pc_of_exec_drw hexec,
    hframe⟩

/-- Settles O36: a sprite is 8 columns wide and at most 15 rows high, below the 64 and 32 of the screen. -/
theorem spriteBitsDistinct : Obligations.SpriteBitsDistinct :=
  fun _ _ _ _ _ _ _ hr hr' hc hc' h => pixAddr_inj (by omega) (by omega) hc hc' h

end Sys2Proof.Machine
end

section
/-! PROOFS. Keys and timers (45_keys_timers.md): the words of the family 0xE, whose secondary key is the low byte;
the key that V[x] names and the least pressed key; and what the service point of a Cycle makes of a timer. -/

namespace Sys2Proof.Machine

section
variable {s t : State} {r : Result} {x q : Nibble} {k : Fin 16} {w : Word} {i : Instr} {ext : Bool}

/-! ### Decode of the family 0xE (30_encoding.md R98, R101) -/

theorem decode_eq_decodeKey (hF : fieldF w = 0xE#4) : decode ext w = decodeKey ext w := by
  simp [decode, hF]

/-- It is enough to read the words with that low byte by the secondary key. -/
theorem ReadsAs.of_key (nn : Byte) {g : Word → Instr}
    (hdec : ∀ w, fieldNN w = nn → decodeKey ext w = .ok (g w)) :
    ReadsAs ext 0xF0FF#16 (wordXNN 0xE#4 0#4 nn) g := by
  intro w hw
  obtain ⟨hF, hNN⟩ := (byte_key w 0xE#4 nn).1 hw
  rw [decode_eq_decodeKey hF, hdec w hNN]

/-- On a core without EXT_STD, the words whose low byte is not that of SKNP are unsupported. -/
theorem UnsupportedAs.of_key (nn : Byte) (hnn : nn ≠ 0xA1#8) :
    UnsupportedAs 0xF0FF#16 (wordXNN 0xE#4 0#4 nn) := by
  intro w hw
  obtain ⟨hF, rfl⟩ := (byte_key w 0xE#4 nn).1 hw
  rw [decode_eq_decodeKey hF]
  exact decodeKey_eq_error_iff.2 ⟨hnn, .inl rfl⟩

/-! ### The key that V[x] names (R250, R251, R256) -/

/-- Any byte but 0 counts as pressed (10_state.md R33). -/
theorem State.pressed_iff (hq : q.toNat = k.val) : s.pressed q = true ↔ s.key[k] ≠ 0x00#8 := by
  obtain rfl : q.toFin = k := Fin.ext hq
  exact bne_iff_ne

theorem State.not_pressed_iff (hq : q.toNat = k.val) : (!s.pressed q) = true ↔ s.key[k] = 0x00#8 := by
  rw [Bool.not_eq_true', ← Bool.not_eq_true, State.pressed_iff hq, not_not]

theorem exec_sknp (x : Nibble) (s : State) :
    exec (.sknp x) s = s.withKey x fun q => .next (s.skipIf (!s.pressed q)) := rfl

/-- A skip on the key that V[x] names, past the check of the index. -/
theorem State.withKey_skipIf {c : Nibble → Bool} {p : Prop} [Decidable p] (hk : (s.getV x).toNat = k.val)
    (hc : ∀ q : Nibble, q.toNat = k.val → (c q = true ↔ p))
    (hr : r = s.withKey x fun q => .next (s.skipIf (c q))) :
    ∃ t, r = .next t ∧ t.pc = (if p then s.pc + 4#16 else s.pc + 2#16) ∧ SameBut {} s t := by
  have hindex : ((s.getV x).setWidth 4).toNat = k.val := by
    rw [BitVec.toNat_setWidth, hk, Nat.mod_eq_of_lt k.isLt]
  rw [hr, s.withKey_of_le (by omega)]
  exact State.next_skipIf (hc _ hindex)

/-! ### The least pressed key (R253) -/

theorem State.firstPressed_eq_none (hnone : ∀ q : Fin 16, s.key[q] = 0x00#8) : s.firstPressed = none := by
  have hspec := s.firstPressed_spec
  split at hspec
  next q _ =>
    obtain ⟨hq, -⟩ := hspec
    exact absurd (hnone q.toFin) ((State.pressed_iff rfl).1 hq)
  next h => exact h

/-- Two keys that are pressed, with none pressed below either, are the same key. -/
theorem State.firstPressed_eq_some (hk : s.key[k] ≠ 0x00#8) (hbelow : ∀ q : Fin 16, q < k → s.key[q] = 0x00#8) :
    s.firstPressed = some (.ofFin k) := by
  have hpressed : s.pressed (.ofFin k) = true := (State.pressed_iff rfl).2 hk
  have hspec := s.firstPressed_spec
  split at hspec
  next q h =>
    obtain ⟨hq, hleast⟩ := hspec
    have hge : ¬ q.toNat < k.val := fun hlt => (State.pressed_iff rfl).1 hq (hbelow q.toFin hlt)
    have hle : ¬ k.val < q.toNat := fun hlt => by simp [hleast (.ofFin k) hlt] at hpressed
    have heq : q = .ofFin k := BitVec.eq_of_toNat_eq (Nat.le_antisymm (Nat.not_lt.1 hle) (Nat.not_lt.1 hge))
    rw [h, heq]
  next => simp [hspec] at hpressed

/-- With a key pressed, LD Vx, K is a load of that key's index. -/
theorem exec_ldVxK_of_some (hext : s.cfg.extStd = true) (hq : s.firstPressed = some q) :
    exec (.ldVxK x) s = s.result x (q.setWidth 8) := by
  simp [exec, execLdVxK, s.withExt_true hext, hq, State.result]

theorem exec_ldVxK_of_none (hext : s.cfg.extStd = true) (hnone : s.firstPressed = none) :
    exec (.ldVxK x) s = .next s := by
  simp [exec, execLdVxK, s.withExt_true hext, hnone]

/-! ### The service point of a Cycle (60_exceptions.md R281 to R283) -/

theorem cycle_of_exec_next (hw : s.fetch = .ok w) (hi : decode s.cfg.extStd w = .ok i)
    (hexec : exec i (s.beginCycle.setOp w) = .next t) : cycle s = .next t.service := by
  rw [cycle_of_decoded s hw hi, hexec, finish]

theorem State.toNat_service_dt (s : State) : s.service.dt.toNat = s.dt.toNat - (if s.tp then 1 else 0) := by
  cases htp : s.tp <;> simp [htp, toNat_decrement]

theorem State.toNat_service_st (s : State) : s.service.st.toNat = s.st.toNat - (if s.tp then 1 else 0) := by
  cases htp : s.tp <;> simp [htp, toNat_decrement]

/-- After an instruction without an event of its own, the Cycle's events are the Beep of the service point. -/
theorem State.service_events_of_nil (hnil : s.events = []) :
    s.service.events = if s.tp = true ∧ s.st.toNat = 1 then [.beep] else [] := by
  have hone : s.st = 0x01#8 ↔ s.st.toNat = 1 := BitVec.toNat_inj.symm
  rw [State.service_events, hnil, List.nil_append]
  exact if_congr (and_congr_right' hone) rfl rfl

end

/-- Settles O40: the scan finds the least pressed key, whose index is the result; where it finds none, the
instruction is the identity, and its Cycle is OP and the service point. -/
theorem keyWait : Obligations.KeyWait := by
  refine ⟨ReadsAs.of_misc 0x0A#8 fun w hNN => by simp [decodeMisc, hNN],
    UnsupportedAs.of_misc 0x0A#8 (by decide), fun x k s hext hk hbelow => ?_, fun x s hext hnone => ?_,
    fun x s w hw hi hnone => ?_, fun x s hext => s.withExt_false hext⟩
  · obtain ⟨t, ht, hx, hpc, hframe⟩ :=
      State.next_result (exec_ldVxK_of_some (x := x) hext (State.firstPressed_eq_some hk hbelow))
    have hindex : (BitVec.setWidth 8 (.ofFin k : Nibble)).toNat = k.val :=
      BitVec.toNat_setWidth_of_le (by decide)
    exact ⟨t, ht, by rw [hx, hindex], hpc, hframe⟩
  · exact exec_ldVxK_of_none hext (State.firstPressed_eq_none hnone)
  · have hext : s.cfg.extStd = true := Instr.ext_of_wfIn (decodedIsWellFormed _ _ _ hi) rfl
    have hexec : exec (.ldVxK x) (s.beginCycle.setOp w) = .next (s.beginCycle.setOp w) :=
      exec_ldVxK_of_none hext (State.firstPressed_eq_none hnone)
    exact ⟨_, cycle_of_exec_next hw hi hexec, rfl, State.service_pc _⟩

/-- Settles O42: each completes, so its Cycle ends with the service point of the state it left, in which TP is
still that of before the Cycle and the events are empty. -/
theorem timerServicedAfterWrite : Obligations.TimerServicedAfterWrite := by
  refine ⟨fun x s w hw hi => ?_, fun x s w hw hi => ?_, fun x s w hw hi => ?_⟩
  · refine ⟨_, cycle_of_exec_next hw hi rfl, ?_⟩
    rw [State.getV_service, State.getV_advance, State.getV_setV, if_pos rfl, State.setOp_dt, State.beginCycle_dt]
  · exact ⟨_, cycle_of_exec_next hw hi rfl, State.toNat_service_dt _⟩
  · exact ⟨_, cycle_of_exec_next hw hi rfl, State.toNat_service_st _, State.service_events_of_nil rfl⟩

/-- Settles O39: the check of the index decides, for SKP past the check of EXT_STD; within it, both are the skip
pattern on the key's byte. -/
theorem keySkips : Obligations.KeySkips :=
  ⟨fun _ => ReadsAs.of_key 0xA1#8 fun w hNN => by simp [decodeKey, hNN],
    ReadsAs.of_key 0x9E#8 fun w hNN => by simp [decodeKey, hNN],
    UnsupportedAs.of_key 0x9E#8 (by decide),
    fun _ _ s hk => State.withKey_skipIf hk (fun _ => State.not_pressed_iff) (exec_sknp _ s),
    fun _ _ s hext hk => State.withKey_skipIf hk (fun _ => State.pressed_iff) (s.withExt_true hext),
    fun x s hout => ⟨(exec_sknp x s).trans (s.withKey_of_lt hout), fun hext =>
      (s.withExt_true hext).trans (s.withKey_of_lt hout)⟩,
    fun _ s hext => s.withExt_false hext⟩

/-- Settles O41: the read of DT gives a result alone; the writes set their timer and pc alone. -/
theorem timerMoves : Obligations.TimerMoves :=
  ⟨fun _ => ReadsAs.of_misc 0x07#8 fun w hNN => by simp [decodeMisc, hNN],
    fun _ => ReadsAs.of_misc 0x15#8 fun w hNN => by simp [decodeMisc, hNN],
    fun _ => ReadsAs.of_misc 0x18#8 fun w hNN => by simp [decodeMisc, hNN],
    fun _ _ => State.next_result rfl,
    fun x s => ⟨_, rfl, rfl, rfl, writersOfState (.ldDtVx x) s _ rfl⟩,
    fun x s => ⟨_, rfl, rfl, rfl, writersOfState (.ldStVx x) s _ rfl⟩⟩

end Sys2Proof.Machine
end

section
/-! PROOFS. Exceptions (60_exceptions.md): the service point and what a Cycle shows of it, just which faults each
instruction raises in which state, and that the fault of a Cycle repeats; the host's screen and key entry points
(R302 to R304). -/

namespace Sys2Proof.Machine

section
variable {s t : State} {i : Instr} {w : Word} {x y n : Nibble} {f : Fault}

/-! ### The service point (R281 to R283) -/

theorem State.service_of_tp_false (htp : s.tp = false) : s.service = s := by
  simp [State.service, htp]

theorem State.service_events_eq_append (s : State) :
    s.service.events = s.events ++ (if s.tp = true ∧ s.st.toNat = 1 then [.beep] else []) := by
  have hone : s.st = 0x01#8 ↔ s.st.toNat = 1 := BitVec.toNat_inj.symm
  simp only [s.service_eq, hone]

theorem move_cycle_of_next (h : cycle s = .next t) : move .cycle s = (t, .ok t.events) := by
  simp only [move, State.hostCycle, h]

/-! ### DT over Cycles (R296) -/

theorem mayWrite_dt (h : ∀ x, i ≠ .ldDtVx x) (s : State) : (mayWrite s i).dt = false := by
  cases i with
  | ldDtVx x => exact absurd rfl (h x)
  | _ => rfl

theorem State.atLdDt_of_decoded (hw : s.fetch = .ok w) (hi : decode s.cfg.extStd w = .ok (.ldDtVx x)) :
    s.atLdDt = true := by
  simp only [State.atLdDt, hw, hi]

/-- A Cycle of another instruction than LD DT changes DT by its service point alone. -/
theorem toNat_dt_of_cycle (hld : s.atLdDt = false) (h : cycle s = .next t) :
    t.dt.toNat = s.dt.toNat - (if s.tp then 1 else 0) := by
  obtain ⟨w, i, u, hw, hi, hu, rfl⟩ := cycle_next s h
  have hne : ∀ x, i ≠ .ldDtVx x := by
    rintro x rfl
    simp [State.atLdDt_of_decoded hw hi] at hld
  have hframe := writersOfState i _ u hu
  rw [State.toNat_service_dt, hframe.dt (mayWrite_dt hne _), hframe.tp]
  rfl

theorem runTicks_cons_eq_some {b : Bool} {bs : List Bool} (h : runTicks (b :: bs) s = some t) :
    s.atLdDt = false ∧ ∃ u, cycle (if b then s.tick else s) = .next u ∧ runTicks bs u = some t := by
  rw [runTicks] at h
  split at h
  · cases h
  · split at h
    · exact ⟨Bool.eq_false_iff.2 ‹_›, _, ‹_›, h⟩
    · cases h

/-- From TP = 0, the service point of the next Cycle acts just where the Ticker fires before it. -/
theorem toNat_dt_of_cycle_tick {b : Bool} (htp : s.tp = false) (hld : s.atLdDt = false)
    (h : cycle (if b then s.tick else s) = .next t) : t.dt.toNat = s.dt.toNat - (if b then 1 else 0) := by
  cases b with
  | true => exact toNat_dt_of_cycle (s := s.tick) hld h
  | false => simpa [htp] using toNat_dt_of_cycle hld h

/-! ### When the checks of an operand fault -/

theorem State.withExt_eq_fault_iff {k : Result} : s.withExt k = .fault f ↔
    (f = .unsupportedOpcode s.op ∧ s.cfg.extStd = false) ∨ (s.cfg.extStd = true ∧ k = .fault f) := by
  refine ⟨s.withExt_fault, ?_⟩
  rintro (⟨rfl, hext⟩ | ⟨hext, rfl⟩)
  · exact s.withExt_false hext
  · exact s.withExt_true hext

theorem State.withExt_eq_fault_iff_of_ne {k : Result} (hk : k ≠ .fault f) :
    s.withExt k = .fault f ↔ f = .unsupportedOpcode s.op ∧ s.cfg.extStd = false := by
  simp [State.withExt_eq_fault_iff, hk]

theorem State.withKey_next_eq_fault_iff {g : Nibble → State} :
    s.withKey x (fun q => .next (g q)) = .fault f ↔
      f = .keyRange s.op (s.getV x) ∧ 0xF < (s.getV x).toNat := by
  constructor
  · intro h
    obtain ⟨q, hq⟩ | hout := s.withKey_fault h
    · cases hq
    · exact hout
  · rintro ⟨rfl, hout⟩
    exact s.withKey_of_lt hout

theorem State.leavesRam_iff {len : Nat} (hlen : rangeLen i = some len) :
    s.LeavesRam i ↔ len ≠ 0 ∧ memSize < s.base + len := by
  simp only [State.LeavesRam, hlen, Option.some.injEq, exists_eq_left', State.base, memSize]
  omega

theorem State.withRange_eq_fault_iff {len : Nat} {k : Result} (hlen : rangeLen i = some len) :
    s.withRange len k = .fault f ↔
      (f = .memRange s.op (max s.i.toNat 0x1000) ∧ s.LeavesRam i) ∨ (¬ s.LeavesRam i ∧ k = .fault f) := by
  rw [State.leavesRam_iff hlen]
  constructor
  · intro h
    obtain ⟨hin, hk⟩ | ⟨hpos, hout, hf⟩ := s.withRange_fault h
    · exact .inr ⟨by omega, hk⟩
    · exact .inl ⟨hf, hpos, hout⟩
  · rintro (⟨rfl, hpos, hout⟩ | ⟨hin, rfl⟩)
    · exact s.withRange_of_lt hpos hout
    · exact s.withRange_of_le (by omega)

theorem State.withRange_next_eq_fault_iff {len : Nat} (hlen : rangeLen i = some len) :
    s.withRange len (.next t) = .fault f ↔
      f = .memRange s.op (max s.i.toNat 0x1000) ∧ s.LeavesRam i := by
  simp [State.withRange_eq_fault_iff hlen]

/-! ### When each instruction faults (R271, R274 to R279) -/

theorem exec_ret_eq_fault_iff : exec .ret s = .fault f ↔ f = .stackUnderflow s.op s.pc ∧ s.sp = 0 := by
  by_cases hsp : s.sp = 0
  · simp [exec_ret_of_eq_zero hsp, hsp, eq_comm]
  · simp [exec_ret_of_ne_zero hsp, hsp]

theorem exec_call_eq_fault_iff {nnn : Addr} :
    exec (.call nnn) s = .fault f ↔ f = .stackOverflow s.op s.pc ∧ s.sp = 15 := by
  by_cases hsp : s.sp = 15
  · simp [exec_call_of_eq hsp, hsp, eq_comm]
  · simp [exec_call_of_ne hsp, hsp]

theorem exec_ldVxK_eq_fault_iff :
    exec (.ldVxK x) s = .fault f ↔ f = .unsupportedOpcode s.op ∧ s.cfg.extStd = false := by
  refine State.withExt_eq_fault_iff_of_ne ?_
  split <;> nofun

/-- An instruction other than DXYN raises exactly the faults that R271 gives it, each just where its condition
holds. -/
theorem exec_eq_fault_iff (hdrw : isDrw i = false) : exec i s = .fault f ↔ MayRaise s f i := by
  cases i with
  | sys => exact (iff_of_eq (Host.Outcome.fault.injEq _ _)).trans eq_comm
  | ret => exact exec_ret_eq_fault_iff
  | call => exact exec_call_eq_fault_iff
  | orReg | xorReg | shr | subnReg | shl | jpV0 | addI => exact State.withExt_eq_fault_iff_of_ne nofun
  | ldVxK => exact exec_ldVxK_eq_fault_iff
  | skp x =>
    exact State.withExt_eq_fault_iff.trans
      (or_congr_right ((and_congr_right' State.withKey_next_eq_fault_iff).trans and_left_comm))
  | sknp x =>
    rw [exec_sknp]
    exact State.withKey_next_eq_fault_iff
  | ldB | ldVxMem => exact State.withRange_next_eq_fault_iff rfl
  | ldMemVx x =>
    exact State.withExt_eq_fault_iff.trans
      (or_congr_right ((and_congr_right' (State.withRange_next_eq_fault_iff rfl)).trans and_left_comm))
  | drw => cases hdrw
  | _ => exact iff_of_false nofun id

/-- DXYN checks the rows in RAM, and then its cells for one outside the framebuffer. -/
theorem exec_drw_eq_fault_iff : exec (.drw x y n) s = .fault f ↔
    (f = .memRange s.op (max s.i.toNat 0x1000) ∧ s.LeavesRam (.drw x y n)) ∨
      (¬ s.LeavesRam (.drw x y n) ∧
        ∃ j, drawOutside s.cfg.drawPolicy (s.drwCells x y n) = some j ∧ f = .drawRange s.op j) := by
  refine (State.withRange_eq_fault_iff rfl).trans (or_congr_right (and_congr_right' ?_))
  cases drawOutside s.cfg.drawPolicy (s.drwCells x y n) with
  | none => simp
  | some j => simp [State.raise, eq_comm]

/-- The index that DRAW_RANGE reports (44_display.md R232). -/
theorem drawOutside_eq_some {p : DrawPolicy} {cells : List Nat} {j : Nat} (h : drawOutside p cells = some j) :
    p = .linear ∧ j ∈ cells ∧ 2048 ≤ j := by
  cases p with
  | wrap => cases h
  | linear => exact ⟨rfl, List.mem_of_find?_eq_some h, by simpa using List.find?_some h⟩

theorem mayRaise_of_exec_drw (h : exec (.drw x y n) s = .fault f) : MayRaise s f (.drw x y n) := by
  obtain hmem | ⟨hin, j, hj, hf⟩ := exec_drw_eq_fault_iff.1 h
  · exact .inl hmem
  · obtain ⟨hlinear, hmem, hge⟩ := drawOutside_eq_some hj
    exact .inr ⟨j, hf, hlinear, hin, State.covers_of_mem_drwCells hmem, hge⟩

/-! ### A fault repeats (R287) -/

theorem State.readBytes_congr (hm : t.mem = s.mem) (hc : t.cfg = s.cfg) (a len : Nat) :
    t.readBytes a len = s.readBytes a len := by
  induction len generalizing a with
  | zero => rfl
  | succ len ih => rw [State.readBytes, State.readBytes, State.readByte_congr hm hc, ih]

theorem State.drwCells_slot (s : State) (x y n : Nibble) (k : Nat) :
    State.drwCells { s with slot := k } x y n = s.drwCells x y n :=
  congrArg (spriteCells s.cfg.drawPolicy (s.getV x).toNat (s.getV y).toNat)
    (State.readBytes_congr (s := s) (t := { s with slot := k }) rfl rfl s.base n.toNat)

theorem mayRaise_slot (k : Nat) : MayRaise { s with slot := k } f i ↔ MayRaise s f i := by
  cases i <;> exact Iff.rfl

/-- No fault depends on the free values that a Cycle draws (log entry 6): the one instruction that reads one,
RND, never faults. -/
theorem exec_fault_of_slot (h : exec i s = .fault f) (k : Nat) : exec i { s with slot := k } = .fault f := by
  cases hdrw : isDrw i with
  | false => exact (exec_eq_fault_iff hdrw).2 ((mayRaise_slot k).2 ((exec_eq_fault_iff hdrw).1 h))
  | true =>
    cases i with
    | drw x y n =>
      rw [exec_drw_eq_fault_iff] at h ⊢
      rwa [State.drwCells_slot]
    | _ => cases hdrw

theorem faulted_fetch (s : State) : (faulted s).fetch = s.fetch := by
  rw [faulted_eq]
  exact State.fetch_congr rfl rfl rfl

/-- The next Cycle executes its instruction on the same state, but for the free values. -/
theorem faulted_beginCycle_setOp (s : State) (w : Word) :
    (faulted s).beginCycle.setOp w = { s.beginCycle.setOp w with slot := s.slot + 2 } := by
  rw [faulted_eq]
  rfl

theorem cycle_faulted (h : cycle s = .fault f) : cycle (faulted s) = .fault f := by
  obtain hf | ⟨w, e, hw, he, rfl⟩ | ⟨w, i, hw, hi, hexec⟩ := cycle_fault s h
  · exact cycle_of_fetch_error ((faulted_fetch s).trans hf)
  · exact cycle_of_decode_error ((faulted_fetch s).trans hw) (by rwa [faulted_cfg])
  · rw [cycle_of_decoded _ ((faulted_fetch s).trans hw) (by rwa [faulted_cfg]), faulted_beginCycle_setOp,
      exec_fault_of_slot hexec, finish]

theorem move_cycle_eq_fault (h : move .cycle s = (t, .fault f)) : cycle s = .fault f ∧ t = faulted s := by
  simp only [move, State.hostCycle] at h
  split at h
  · cases h
  · cases h
    exact ⟨‹_›, rfl⟩
  · cases h

/-! ### Keys (R303) -/

theorem State.getElem_setKey (s : State) (k q : Fin 16) (b : Byte) :
    (s.key.set k.val b)[q] = if q = k then b else s.key[q] := by
  simp only [Fin.getElem_fin, Vector.getElem_set, Fin.ext_iff, eq_comm]

end

/-- Settles O43: `service` in every field; `finish` adds it to an instruction that completes. -/
theorem servicePoint : Obligations.ServicePoint := by
  refine ⟨fun s => State.service_of_tp_false, fun s htp => ⟨s.service_tp, ?_, ?_, ?_, ?_⟩,
    fun s t w i => cycle_of_exec_next⟩
  · rw [State.toNat_service_dt, if_pos htp]
  · rw [State.toNat_service_st, if_pos htp]
  · simp only [s.service_events_eq_append, htp, true_and]
  · rw [State.service_eq]

/-- Settles O44: a Cycle begins with no event, the instruction adds a Draw where it is DXYN and keeps TP, and the
service point adds the Beep. -/
theorem eventsOfCycle : Obligations.EventsOfCycle := by
  intro s t h
  obtain ⟨w, i, u, hw, hi, hu, rfl⟩ := cycle_next s h
  refine ⟨w, i, u, hw, hi, hu, ?_, move_cycle_of_next h⟩
  rw [State.service_events_eq_append, onlyDrwEmitsDraw i _ u hu, (writersOfState i _ u hu).tp]
  rfl

/-- Settles O45, by induction on the firings: each Cycle clears TP and lowers DT just where the Ticker fired. -/
theorem delayCountsTicks : Obligations.DelayCountsTicks := by
  intro bs
  induction bs with
  | nil =>
    intro s t htp h
    obtain rfl := Option.some.inj h
    exact ⟨htp, rfl⟩
  | cons b bs ih =>
    intro s t htp h
    obtain ⟨hld, u, hu, hrest⟩ := runTicks_cons_eq_some h
    obtain ⟨htp', hdt⟩ := ih u t (cycle_tp hu) hrest
    exact ⟨htp', by rw [hdt, toNat_dt_of_cycle_tick htp hld hu, sub_count_cons]⟩

/-- Settles O48: a faulting Cycle keeps all that the fetch, Decode and the instruction's checks read. -/
theorem faultRepeats : Obligations.FaultRepeats := by
  intro s t f h
  obtain ⟨hcycle, rfl⟩ := move_cycle_eq_fault h
  exact ⟨_, move_cycle_of_fault (cycle_faulted hcycle)⟩

/-- Settles O49: DXYN by its two checks, every other instruction by the exact condition of its faults. -/
theorem faultsOfInstructions : Obligations.FaultsOfInstructions := by
  intro i s f h
  cases hdrw : isDrw i with
  | false => exact (exec_eq_fault_iff hdrw).1 h
  | true =>
    cases i with
    | drw x y n => exact mayRaise_of_exec_drw h
    | _ => cases hdrw

/-- Settles O52: the two sides of each bound; a write of one key entry keeps the others. -/
theorem pixelsAndKeys : Obligations.PixelsAndKeys := by
  refine ⟨fun s j hj => if_pos hj, fun s j hj => if_neg (Nat.not_lt.2 hj), fun s k => ?_,
    fun s k hk => dif_neg (Nat.not_lt.2 hk), fun s => ⟨s.hostKeysClear, rfl, rfl, fun q => ?_⟩⟩
  · exact ⟨_, dif_pos k.isLt, rfl, fun q => s.getElem_setKey k q 0x01#8⟩
  · simp [State.hostKeysClear]

end Sys2Proof.Machine
end

section
/-! PROOFS. Reset and hazards (70_reset_and_hazards.md): what `Load` does in each of its three cases (R324 to R326),
and what a Cycle before any `Load` raises and leaves (R327). -/

namespace Sys2Proof.Machine

section
variable {s : State} {b : List Byte}

/-! ### The bytes of a program -/

theorem State.readByte_writeBytes_add (s : State) (a : Nat) {k : Nat} (hk : k < b.length) :
    (s.writeBytes a b).readByte (a + k) = b[k] := by
  rw [State.readByte_writeBytes, if_pos (Nat.le_add_right a k), Nat.add_sub_cancel_left,
    List.getElem?_eq_getElem hk, Option.getD_some]

theorem State.readByte_writeBytes_of_outside (s : State) {a c : Nat} (hc : c < a ∨ a + b.length ≤ c) :
    (s.writeBytes a b).readByte c = s.readByte c := by
  rw [State.readByte_writeBytes]
  split
  · have hpast : b.length ≤ c - a := by omega
    rw [List.getElem?_eq_none hpast, Option.getD_none]
  · rfl

/-! ### The cases of `Load` -/

theorem move_load_of_loaded (hs : s.loaded = true) : move (.load b) s = (s, .loadRefused) := if_pos hs

theorem move_load_of_not_loaded (hs : s.loaded = false) : move (.load b) s =
    if maxRom < b.length then (s, .loadOverflow b.length)
    else ({ s.writeBytes progStart b with loaded := true }, .loaded) :=
  if_neg (Bool.eq_false_iff.1 hs)

theorem move_load_of_long (hs : s.loaded = false) (hlen : 3584 < b.length) :
    move (.load b) s = (s, .loadOverflow b.length) :=
  (move_load_of_not_loaded hs).trans (if_pos hlen)

theorem move_load_of_fits (hs : s.loaded = false) (hlen : b.length ≤ 3584) :
    move (.load b) s = ({ s.writeBytes progStart b with loaded := true }, .loaded) :=
  (move_load_of_not_loaded hs).trans (if_neg (Nat.not_lt.2 hlen))

/-! ### A Cycle before any `Load` -/

theorem IsReset.fetch_eq (hs : IsReset s) : s.fetch = .ok 0x0000#16 := by
  have hpc : s.pc.toNat = 0x200 := by rw [hs.pc]; rfl
  have hhi : s.readByte 0x200 = 0x00#8 := hs.mem 0x200 (by decide) (by decide)
  have hlo : s.readByte (0x200 + 1) = 0x00#8 := hs.mem 0x201 (by decide) (by decide)
  rw [s.fetch_of_lt (by omega), hpc, hhi, hlo]
  rfl

/-- The word 0x0000 is SYS 0x000, which raises in every state (41_control_flow.md R130). -/
theorem IsReset.cycle_eq (hs : IsReset s) : cycle s = .fault (.unimplementedOpcode 0x0000#16) := by
  obtain ⟨-, -, hsys⟩ := sysRaises
  obtain ⟨hcycle, -⟩ := hsys s 0x0000#16 hs.fetch_eq (by decide) (by decide) (by decide)
  exact hcycle

/-- The word that the faulting Cycle keeps in OP is the reset value of OP. -/
theorem IsReset.faulted (hs : IsReset s) : IsReset (faulted s) := by
  rw [faulted_of_fetch_ok hs.fetch_eq]
  exact { hs with op := rfl, events := rfl }

end

/-- Settles O51: the three cases of `Load`, by LOADED and then by the length. -/
theorem loadProgram : Obligations.LoadProgram := by
  refine ⟨fun s b => move_load_of_loaded, fun s b => move_load_of_long, fun s b hs hlen => ?_⟩
  refine ⟨_, move_load_of_fits hs hlen, ?_, fun k hk => ?_, fun a ha => ?_⟩
  · rw [s.writeBytes_eq]
  · exact s.readByte_writeBytes_add progStart hk
  · exact s.readByte_writeBytes_of_outside ha

/-- Settles O2: the Cycle fetches 0x0000 and leaves the reset values, LOADED among them. -/
theorem cycleBeforeLoad : Obligations.CycleBeforeLoad := by
  intro s b hlen
  have hreset : IsReset s.hostReset := isReset_resetWith s.cfg s.slot s.ticks
  refine ⟨faulted s.hostReset, move_cycle_of_fault hreset.cycle_eq, hreset.faulted, ?_⟩
  rw [move_load_of_fits hreset.faulted.loaded hlen]

end Sys2Proof.Machine
end
